-- ==== Sys2Proof/Word.lean ====
section
/-! DEFINITION. The widths of the machine: words, bytes, beam coordinates, I/O codes
(spec 00_scope.md R2, R7, R8; 10_state.md R10, R22). -/

namespace Sys2Proof

/-- A Word, the 16-bit unsigned storage cell of R10. -/
abbrev Word := BitVec 16

/-- One byte: a half of a captured word (R54, R100) and a cell of the model's memory list. -/
abbrev Byte := BitVec 8

/-- A beam coordinate, `DAC_BITS` = 11 bits (R2, R22). -/
abbrev Dac := BitVec 11

/-- A 9-bit I/O code, `IOT_CODE_BITS` = 9 (R2, R86). -/
abbrev IotCode := BitVec 9

end Sys2Proof
end

