-- ==== Sys2Proof/Config.lean ====
section
/-! DEFINITION. The parameters of the hardware (spec 00_scope.md R2), the interface types of the
collaborators outside the core (10_state.md R37, R38; 43_main_iot.md R236), and the three
free values, constants with no body (notes/assumptions 5, 6 and 9). -/

namespace Sys2Proof

/-- The three values of a ProcessorState (R15, R28). -/
inductive ProcState where
  | halted
  | running
  | breakpointHalt
  deriving DecidableEq, Repr, Inhabited

/-- A device of the IOT registry (R35): the Display Processor or an external peripheral. -/
inductive Device where
  | display
  | external (id : Nat)
  deriving DecidableEq, Repr, Inhabited

/-- `REG`, the partial map from IOT code to device (R35): configuration, changed by no step. -/
abbrev Registry := List (IotCode × Device)

/-- The parameters of R2 that the document leaves OPEN, and `REG`. They are held in the state so
that a statement about every state is a statement about every parameter value; no step changes
them (R40). -/
structure Params where
  /-- `ADDR_BITS`, 11 to 16. -/
  addrBits : Nat
  /-- `BOOT_ADDRESS`. -/
  bootAddress : Word
  /-- `MAIN_RESET_STATE`. -/
  mainResetState : ProcState
  /-- `IGNORED_IOT_CODE`, an optional code. -/
  ignoredIotCode : Option IotCode
  /-- `DAC_MSB_STEP`. -/
  dacMsbStep : Dac
  /-- `DAC_LSB_MASK`. -/
  dacLsbMask : Dac
  /-- `DBLOCK_BITS`. -/
  dblockBits : Nat
  /-- `LV_MAG_BITS`. -/
  lvMagBits : Nat
  /-- `FRAME_CYCLES`. -/
  frameCycles : Nat
  /-- `REGISTRY`. -/
  registry : Registry
  deriving DecidableEq, Repr, Inhabited

/-- The Display Processor's `handled_codes()`: DLA, DOF, SCF, DRS (R237 to R240). -/
def displayCodes : List IotCode := [0x003, 0x00A, 0x039, 0x0C4]

/-- The defaults of R2. `ADDR_BITS` has no default there: 13 is the value of the spec's test
vectors (DESIGN CHOICE, notes/assumptions 1). -/
def Params.default : Params where
  addrBits := 13
  bootAddress := 0x0020
  mainResetState := .halted
  ignoredIotCode := none
  dacMsbStep := 0x20
  dacLsbMask := 0x1F
  dblockBits := 11
  lvMagBits := 10
  frameCycles := 13889
  registry := [(0x003, .display), (0x00A, .display), (0x039, .display), (0x0C4, .display)]

/-- No two entries of the registry are for one code (R235). -/
def Registry.ownersDistinct : Registry → Bool
  | [] => true
  | (c, _) :: rest => !(rest.any fun e => e.1 == c) && Registry.ownersDistinct rest

/-- A well-formed registry: one owner a code, and the Display Processor owns exactly its four
codes (R234, R235, R241). -/
def Registry.wf (r : Registry) : Bool :=
  Registry.ownersDistinct r
    && displayCodes.all (fun c => r.contains (c, Device.display))
    && r.all (fun e => e.2 != Device.display || displayCodes.contains e.1)

/-- A well-formed configuration (R2, R235, R366 (a)). The operand fields bound `DBLOCK_BITS` and
`LV_MAG_BITS` by 12: a display word has 12 data bits (R91), and bit 12 of a long vector's third
word is a flag (R96). -/
def Params.wf (p : Params) : Bool :=
  decide (11 ≤ p.addrBits) && decide (p.addrBits ≤ 16)
    && decide (p.dblockBits ≤ 12) && decide (p.lvMagBits ≤ 12)
    && Registry.wf p.registry

/-- `INDEX_LO` and `INDEX_HI`: the page offsets of the auto-increment cells (R2). -/
def indexLo : Word := 0x008
def indexHi : Word := 0x00F

/-- `2^PAGE_BITS - 1` with `PAGE_BITS` = 11 (R2). -/
def pageOffsetMask : Word := 0x07FF

/-- `SGR1_MATCH` and `SGR1_MASK` (R98), kept as named constants as that rule asks. -/
def sgr1Match : Word := 0x0FC8
def sgr1Mask : Word := 0x0FF8

/-- The four kinds of breakpoint (R37 (a)). -/
inductive BreakKind where
  | execution
  | read
  | write
  | display
  deriving DecidableEq, Repr, Inhabited

/-- One point at which the predicate `BP(kind, addr)` of R37 is true. -/
structure Breakpoint where
  kind : BreakKind
  addr : Word
  deriving DecidableEq, Repr, Inhabited

/-- The four readiness inputs (R37 (b)). -/
structure Readiness where
  kbd : Bool
  ttyIn : Bool
  ttyOut : Bool
  ptr : Bool
  deriving DecidableEq, Repr, Inhabited

/-- The Main Processor's registers that the host may deposit (R132). -/
inductive MainReg where
  | pc
  | ac
  | link
  | ds
  deriving DecidableEq, Repr, Inhabited

/-- The Display Processor's registers that the host may deposit (R337, R374). -/
inductive DispReg where
  | dpc
  | block
  | x
  | y
  | scale
  | sgr
  | frameLatch
  deriving DecidableEq, Repr, Inhabited

/-- What the host may request between steps (R4, R5, R132, R360, R374). -/
inductive HostRequest where
  /-- one `MainStep` (R120) -/
  | mainStep
  /-- one `DispStep` (R250) -/
  | dispStep
  /-- system reset (R360) -/
  | reset
  /-- set MSTATE to Running (R132) -/
  | resumeMain
  /-- set DSTATE to Running from BreakpointHalt (R276) -/
  | resumeDisplay
  /-- a memory write through `MemWrite`: program load or deposit (R52, R374) -/
  | store (addr value : Word)
  /-- deposit a register of the Main Processor (R132) -/
  | depositMain (reg : MainReg) (value : Word)
  /-- deposit a register of the Display Processor (R374) -/
  | depositDisplay (reg : DispReg) (value : Word)
  /-- deposit FRAMECNT, a count of any width (R26, R374) -/
  | depositFrameCount (count : Nat)
  /-- deposit the Display Processor's return stack, its top first (R374) -/
  | depositStack (addrs : List Word)
  /-- change the breakpoint predicate (R374) -/
  | setBreakpoints (points : List Breakpoint)
  /-- change the readiness inputs (R374) -/
  | setReadiness (ready : Readiness)
  /-- change `data_switch_mapping_enabled` and `data_switches` (R14, R374) -/
  | setSwitches (mapping : Bool) (value : Word)
  /-- change the external devices' behaviour, input (d) of R37, through their private state (R374;
  notes/assumptions 5) -/
  | setDevices (devices : Nat)
  deriving DecidableEq, Repr, Inhabited

/-- What an external device's `execute_iot` gives back: AC, the readiness inputs, and the external
devices' private state (R236). -/
structure DeviceReply where
  ac : Word
  ready : Readiness
  devices : Nat
  deriving DecidableEq, Repr, Inhabited

/-- FREE VALUE (R236, notes/assumptions 5). The handler of an external device: from its identity,
the code, AC, L, the readiness inputs and the private state of the external devices, anything
within the frame of R236. -/
opaque Config.deviceReply (id : Nat) (code : IotCode) (ac : Word) (l : Bool) (ready : Readiness)
    (devices : Nat) : DeviceReply

/-- FREE VALUE (R5, notes/assumptions 6). The host's `n`-th request that the state's own list of
pending requests does not name. -/
opaque Config.hostRequest (n : Nat) : HostRequest

/-- FREE VALUE (R364, notes/assumptions 9). What the host's store holds at power-on at byte address
`k`: the initial memory, a parameter of the model of which nothing is assumed. -/
opaque Config.powerOnByte (k : Nat) : Byte

end Sys2Proof
end

