-- ==== Sys2Proof/Syntax.lean ====
section
/-! DEFINITION. The instructions: one constructor for every row of spec/opcode_table.json, in its
order. The fields of a constructor are the row's fields, in the row's order. The rows of kind
"alias" are the named combinations of spec 30_encoding.md R105. -/

namespace Sys2Proof

/-- The instructions of both processors and the two half formats of Increment mode.
The Main Processor's rows come first, then the Display Processor's. -/
inductive Instr where
  -- class 1 (R83)
  | opr (nh oda cml cll iac cma cla : Bool)
  -- class 2 (R84): display-on flag, repeat count
  | ral (don : Bool) (cnt : BitVec 2)
  | rar (don : Bool) (cnt : BitVec 2)
  | sal (don : Bool) (cnt : BitVec 2)
  | sar (don : Bool) (cnt : BitVec 2)
  -- class 3 (R85): negate flag, the nine condition bits w[8:0]
  | skp (neg : Bool) (cond : BitVec 9)
  -- IOT (R86): the whole code; DEV and IOP are its two parts
  | iot (code : IotCode)
  -- immediate loads (R87)
  | law (imm : BitVec 11)
  | lwc (imm : BitVec 11)
  -- the orders with a memory operand (R87): indirect bit, page offset
  | jmp (ind : Bool) (addr : BitVec 11)
  | dac (ind : Bool) (addr : BitVec 11)
  | xam (ind : Bool) (addr : BitVec 11)
  | isz (ind : Bool) (addr : BitVec 11)
  | jms (ind : Bool) (addr : BitVec 11)
  | and (ind : Bool) (addr : BitVec 11)
  | ior (ind : Bool) (addr : BitVec 11)
  | xor (ind : Bool) (addr : BitVec 11)
  | lac (ind : Bool) (addr : BitVec 11)
  | add (ind : Bool) (addr : BitVec 11)
  | sub (ind : Bool) (addr : BitVec 11)
  | sam (ind : Bool) (addr : BitVec 11)
  -- the unassigned Main words, one constructor a row (R89); the field is the raw word
  | unassignedIot (w : Word)
  | unassignedShift (w : Word)
  | unassignedOrder3 (w : Word)
  | unassignedOrder8 (w : Word)
  -- named combinations of class 1
  | hlt
  | nop
  | cla
  | cma
  | sta
  | iac
  | coa
  | cia
  | cll
  | cal
  | cml
  | stl
  | oda
  | lda
  -- named combination of class 2
  | don
  -- named combinations of class 3
  | asz
  | asn
  | asp
  | asm
  | lsz
  | lsn
  | dsf
  | dsn
  | ksf
  | ksn
  | rsf
  | rsn
  | tsf
  | tsn
  | ssf
  | ssn
  | hsf
  | hsn
  -- the Display Processor's own IOT codes
  | dla
  | dof
  | scf
  | drs
  -- Display Processor, Processor mode (R93 to R98)
  | dopr (nh sync ixm iym dxm dym rjm dsp : Bool) (f c : BitVec 2)
  | dlxa (v : BitVec 10)
  | dlya (v : BitVec 10)
  | deim (b : BitVec 8)
  | dlvh (hint : BitVec 12)
  -- the field is w[DBLOCK_BITS-1:0] (R92, R97), at most the word's twelve data bits (R91)
  | djms (a : BitVec 12)
  | djmp (a : BitVec 12)
  | sgr1 (beam ret enter : Bool)
  -- the unassigned Display words (R99); the field is the raw word
  | unassignedDisplay (w : Word)
  -- named combinations of DOPR
  | dhlt
  | dnop
  | dhvc
  | dixm
  | diym
  | ddxm
  | ddym
  | drjm
  | ddsp
  | dsts (c : BitVec 2)
  | dstb (c : BitVec 2)
  | dlpn (c : BitVec 2)
  -- the halves of Increment mode (R100)
  | incVec (beam xneg : Bool) (xmag : BitVec 2) (yneg : Bool) (ymag : BitVec 2)
  | incCtl (esc rjm ixm zxl iym zyl : Bool)
  deriving DecidableEq, Repr, Inhabited

/-- Which of the three decoders reads an instruction: the Main Processor's (R82), the Display
Processor's in Processor mode (R92), or that of an Increment-mode half (R100). -/
inductive Decoder where
  | main
  | display
  | half
  deriving DecidableEq, Repr, Inhabited

/-- The decoder to which a constructor belongs (R102). -/
def Instr.decoder : Instr → Decoder
  | .opr .. | .ral .. | .rar .. | .sal .. | .sar .. | .skp .. | .iot .. | .law .. | .lwc ..
  | .jmp .. | .dac .. | .xam .. | .isz .. | .jms .. | .and .. | .ior .. | .xor .. | .lac ..
  | .add .. | .sub .. | .sam .. | .unassignedIot .. | .unassignedShift .. | .unassignedOrder3 ..
  | .unassignedOrder8 .. | .hlt | .nop | .cla | .cma | .sta | .iac | .coa | .cia | .cll | .cal
  | .cml | .stl | .oda | .lda | .don | .asz | .asn | .asp | .asm | .lsz | .lsn | .dsf | .dsn
  | .ksf | .ksn | .rsf | .rsn | .tsf | .tsn | .ssf | .ssn | .hsf | .hsn | .dla | .dof | .scf
  | .drs => .main
  | .dopr .. | .dlxa .. | .dlya .. | .deim .. | .dlvh .. | .djms .. | .djmp .. | .sgr1 ..
  | .unassignedDisplay .. | .dhlt | .dnop | .dhvc | .dixm | .diym | .ddxm | .ddym | .drjm
  | .ddsp | .dsts .. | .dstb .. | .dlpn .. => .display
  | .incVec .. | .incCtl .. => .half

end Sys2Proof
end

