-- ==== Sys2Proof/Machine/State.lean ====
section
/-! DEFINITION. The state of the machine (spec 10_state.md), its faults and refusals, and the state
right after reset (10_state.md section 11, 70_reset_and_hazards.md R360 to R365). -/

namespace Sys2Proof.Machine

/-- `ExecState` of the Main Processor (R16). -/
inductive Fsm where
  | fetch
  | defer
  | execute
  deriving DecidableEq, Repr, Inhabited

/-- `DMODE` (R29), also the value of a usage-mode tag (R34). -/
inductive DisplayMode where
  | processor
  | increment
  deriving DecidableEq, Repr, Inhabited

/-- `HALF`: which half of IMMWORD is consumed next (R30). -/
inductive Half where
  | first
  | second
  deriving DecidableEq, Repr, Inhabited

/-- The styles of a move (R38). -/
inductive Style where
  | off
  | normal
  | dotted
  | extended
  deriving DecidableEq, Repr, Inhabited

/-- The events of the sink trace (R38). -/
inductive SinkEvent where
  | moveAbsolute (x y : Dac) (style : Style)
  | drawPoint (x y : Dac)
  | frameDone
  deriving DecidableEq, Repr, Inhabited

/-- The two logged events of R326. -/
inductive LogEvent where
  | unregisteredIot (code : IotCode)
  | displayStackUnderflow
  deriving DecidableEq, Repr, Inhabited

/-- The Main Processor (R11 to R19). -/
structure MainRegs where
  /-- `PC` (R11) -/
  pc : Word
  /-- `AC` (R12) -/
  ac : Word
  /-- `L`, the Link (R13) -/
  l : Bool
  /-- `DS` (R14) -/
  ds : Word
  /-- `MSTATE` (R15) -/
  mstate : ProcState
  /-- `FSM` (R16) -/
  fsm : Fsm
  /-- `IR` (R17) -/
  ir : Instr
  /-- `EA` (R18) -/
  ea : Word
  /-- `MBPADDR` (R19) -/
  bpAddr : Word
  deriving DecidableEq, Repr

/-- The Display Processor (R20 to R32). -/
structure DispRegs where
  /-- `DPC` (R20) -/
  dpc : Word
  /-- `BLOCK` (R21) -/
  block : Word
  /-- `X` (R22) -/
  x : Dac
  /-- `Y` (R22) -/
  y : Dac
  /-- `SCALE` (R23) -/
  scale : Nat
  /-- `SGR_ENTER` (R24) -/
  sgrEnter : Bool
  /-- `SGR_BEAM` (R24) -/
  sgrBeam : Bool
  /-- `SGR_RET` (R24) -/
  sgrRet : Bool
  /-- `DSTACK` (R25), the top first -/
  dstack : List Word
  /-- `FRAMECNT` (R26) -/
  frameCnt : Nat
  /-- `FRAMELATCH` (R27) -/
  frameLatch : Bool
  /-- `DSTATE` (R28) -/
  dstate : ProcState
  /-- `DMODE` (R29) -/
  dmode : DisplayMode
  /-- `IMMWORD` (R30) -/
  immWord : Word
  /-- `HALF` (R30) -/
  half : Half
  /-- `DENTRY` (R31) -/
  dentry : Word
  /-- `DBPADDR` (R32) -/
  bpAddr : Word
  deriving DecidableEq, Repr

/-- The inputs of R37 (a) to (c), as the collaborators outside the core hold them now. -/
structure Inputs where
  /-- the points at which `BP` is true; every predicate over the finite space is such a list -/
  breakpoints : List Breakpoint
  /-- the readiness inputs -/
  ready : Readiness
  /-- `data_switches` -/
  switches : Word
  /-- `data_switch_mapping_enabled` -/
  mapping : Bool
  deriving DecidableEq, Repr

/-- The whole machine. -/
structure State where
  /-- the parameters and `REG`: configuration, changed by no step (R2, R35, R40) -/
  params : Params
  main : MainRegs
  disp : DispRegs
  /-- `M` (R36): word `a` is the bytes `2a` (bits 15:8) and `2a + 1` (notes/assumptions 3); a word
  that nothing has stored since power-on is not listed (R364, notes/assumptions 9) -/
  mem : List Host.Cell
  /-- `MCACHE` (R33) -/
  mcache : List (Nat × Instr)
  /-- `DCACHE` without its tags (R34) -/
  dcache : List (Nat × Instr)
  /-- the usage-mode tags (R34, R278), kept apart from the cache (notes/assumptions 7) -/
  usage : List (Nat × DisplayMode)
  inputs : Inputs
  /-- the private state of the external devices (R37 (d), R236), a number; the model's own field -/
  devices : Nat
  /-- the sink trace, oldest event first (R38) -/
  sink : List SinkEvent
  /-- the log (R326), oldest entry first; read by nothing -/
  log : List LogEvent
  /-- the host's pending requests, next first (R4, R5); the model's own field -/
  agenda : List HostRequest
  /-- how many requests were taken from the free schedule; the model's own field -/
  tick : Nat
  deriving DecidableEq, Repr

/-- The fatal errors of a step (60_exceptions.md R327). A fault is outcome (b) of R6: there is no
next state, and only a reset of the state before the step goes on (R320, R360). SAFE: the spec
itself ends the machine here. -/
inductive Fault where
  /-- `UnimplementedInstruction(word, address)`: raised by the meanings of the unassigned rows,
  in a Main Fetch step (R320) or a Processor-mode display step (R321). SAFE. -/
  | unimplementedInstruction (word address : Word)
  /-- `UnimplementedDisplayIOT(code)`: raised by an IOT whose code the registry routes to the
  Display Processor without being one of its four (R322). SAFE. -/
  | unimplementedDisplayIot (code : IotCode)
  deriving DecidableEq, Repr

/-- What the model gives no step. SAFE: the spec gives these no meaning either. -/
inductive Refusal where
  /-- raised by `exec` for an instruction that has no meaning yet; no arm does. SAFE. -/
  | notModelled (mnemonic : String)
  /-- raised by a host request to deposit a register of a processor that is Running, which R132
  and R374 do not give the host (notes/assumptions 10). SAFE. -/
  | depositWhileRunning
  /-- raised by a host request to deposit a FRAMECNT above FRAME_CYCLES, which R26 does not let the
  register hold (notes/assumptions 10). SAFE. -/
  | depositOutOfRange
  /-- raised by a host request to resume a Display Processor that is Halted: only the Main
  Processor leaves that state (R28, R336; notes/assumptions 10). SAFE. -/
  | resumeOfHaltedDisplay
  deriving DecidableEq, Repr

/-- The outcome of a step or of a meaning. -/
abbrev Result := Host.Outcome State Fault Refusal

/-- The Main Processor after reset (R361). IR and EA have no reset value (R17, R18):
notes/assumptions 8. -/
def MainRegs.reset : MainRegs where
  pc := 0x0020
  ac := 0
  l := false
  ds := 0
  mstate := .halted
  fsm := .fetch
  ir := .nop
  ea := 0
  bpAddr := 0

/-- The Display Processor after reset (R362). -/
def DispRegs.reset : DispRegs where
  dpc := 0
  block := 0
  x := 0
  y := 0
  scale := 1
  sgrEnter := false
  sgrBeam := false
  sgrRet := false
  dstack := []
  frameCnt := 0
  frameLatch := false
  dstate := .halted
  dmode := .processor
  immWord := 0
  half := .first
  dentry := 0
  bpAddr := 0

/-- The machine right after reset with the default parameters, the initial memory of power-on with
nothing stored over it (R364), no input set and no host request pending: what reset does not fix is
notes/assumptions 1, 8 and 9. -/
def State.reset : State where
  params := Params.default
  main := MainRegs.reset
  disp := DispRegs.reset
  mem := []
  mcache := []
  dcache := []
  usage := []
  inputs :=
    { breakpoints := [], ready := ⟨false, false, false, false⟩, switches := 0, mapping := false }
  devices := 0
  sink := [.moveAbsolute 0 0 .off]
  log := []
  agenda := []
  tick := 0

end Sys2Proof.Machine
end

