-- ==== Sys2Proof/Machine/Flags.lean ====
section
/-! DEFINITION. What the instructions compute: AC with the Link (spec 41 R162, R163; 42 R180, R195
to R199), the class 3 conditions (42 R201), and the beam arithmetic (10 R22; 44 R272; 45 R302). -/

namespace Sys2Proof.Machine

/-- The accumulator and the Link, the pair that the arithmetic and operate instructions act on. -/
structure Accumulator where
  ac : Word
  l : Bool
  deriving DecidableEq, Repr

/-! ## ADD and SUB -/

/-- R162: a 17-bit sum; its carry toggles L. -/
def addLink (a : Accumulator) (m : Word) : Accumulator :=
  let sum : BitVec 17 := a.ac.zeroExtend 17 + m.zeroExtend 17
  { ac := sum.extractLsb' 0 16, l := xor a.l (sum.getLsbD 16) }

/-- R163: a 17-bit difference; its borrow, bit 16, toggles L. -/
def subLink (a : Accumulator) (m : Word) : Accumulator :=
  let diff : BitVec 17 := a.ac.zeroExtend 17 - m.zeroExtend 17
  { ac := diff.extractLsb' 0 16, l := xor a.l (diff.getLsbD 16) }

/-! ## Class 1 -/

/-- Phase 1 of R180: clear AC, clear L. -/
def oprClear (cla cll : Bool) (a : Accumulator) : Accumulator :=
  { ac := if cla then 0 else a.ac, l := if cll then false else a.l }

/-- Phase 2 of R180: complement AC, complement L. -/
def oprComplement (cma cml : Bool) (a : Accumulator) : Accumulator :=
  { ac := if cma then ~~~a.ac else a.ac, l := if cml then !a.l else a.l }

/-- The increment of phase 3 of R180: L is toggled when AC wraps to 0. -/
def oprIncrement (iac : Bool) (a : Accumulator) : Accumulator :=
  if iac then { ac := a.ac + 1, l := if a.ac + 1 = 0 then !a.l else a.l } else a

/-- The OR of the data switches in phase 3 of R180, after the increment. -/
def oprOrSwitches (oda : Bool) (ds : Word) (a : Accumulator) : Accumulator :=
  if oda then { a with ac := a.ac ||| ds } else a

/-- The micro-operations of R180 in their order. -/
def oprPhases (oda cml cll iac cma cla : Bool) (ds : Word) (a : Accumulator) : Accumulator :=
  oprOrSwitches oda ds (oprIncrement iac (oprComplement cma cml (oprClear cla cll a)))

/-! ## Class 2 -/

/-- `Step1(RAL)` (R196). -/
def rotateLeft1 (a : Accumulator) : Accumulator :=
  { ac := (a.ac <<< 1) ||| (if a.l then 1 else 0), l := a.ac.getLsbD 15 }

/-- `Step1(RAR)` (R197). -/
def rotateRight1 (a : Accumulator) : Accumulator :=
  { ac := (a.ac >>> 1) ||| (if a.l then 0x8000 else 0), l := a.ac.getLsbD 0 }

/-- `Step1(SAL)` (R198): the sign stays, L is untouched. -/
def shiftLeft1 (a : Accumulator) : Accumulator :=
  { a with ac := (a.ac &&& 0x8000) ||| ((a.ac <<< 1) &&& 0x7FFF) }

/-- `Step1(SAR)` (R199): the sign stays and is copied down, L is untouched. -/
def shiftRight1 (a : Accumulator) : Accumulator :=
  { a with ac := (a.ac &&& 0x8000) ||| (a.ac >>> 1) }

/-- `repeat n times` (R195). -/
def iterate (f : Accumulator → Accumulator) : Nat → Accumulator → Accumulator
  | 0, a => a
  | n + 1, a => iterate f n (f a)

/-! ## Class 3 -/

/-- One condition of R201: a set bit overwrites the result with its truth value. -/
def overwrite (set truth r : Bool) : Bool := if set then truth else r

/-- The nine conditions of R201 in ascending bit order, the last set one deciding, then the
negation. -/
def skipTest (neg : Bool) (c : BitVec 9) (s : State) : Bool :=
  let r0 := overwrite (c.getLsbD 0) (s.main.ac == 0) false
  let r1 := overwrite (c.getLsbD 1) (!s.main.ac.getLsbD 15) r0
  let r2 := overwrite (c.getLsbD 2) (!s.main.l) r1
  let r3 := overwrite (c.getLsbD 3) (s.disp.dstate == .running) r2
  let r4 := overwrite (c.getLsbD 4) s.inputs.ready.kbd r3
  let r5 := overwrite (c.getLsbD 5) s.inputs.ready.ttyIn r4
  let r6 := overwrite (c.getLsbD 6) s.inputs.ready.ttyOut r5
  let r7 := overwrite (c.getLsbD 7) s.disp.frameLatch r6
  let r8 := overwrite (c.getLsbD 8) s.inputs.ready.ptr r7
  if neg then !r8 else r8

/-! ## The beam -/

/-- A relative move of a beam coordinate: an exact integer, stored modulo 2^11 (R22). -/
def dacMove (v : Dac) (negative : Bool) (amount : Nat) : Dac :=
  BitVec.ofInt 11 (if negative then (v.toNat : Int) - amount else (v.toNat : Int) + amount)

/-- A magnitude scaled and doubled into the 11-bit space, an exact integer (R272, R302). -/
def scaled (magnitude scale : Nat) : Nat := magnitude * scale * 2

/-- The value a position load stores (R94, R269): the operand doubled. -/
def doubled (v : BitVec 10) : Dac := v.zeroExtend 11 <<< 1

/-- The scale that the constant of "set scale" selects (R265). -/
def scaleOf (c : BitVec 2) : Nat := if c = 0 then 1 else c.toNat

/-- The style of a long vector (R272). -/
def lineStyle (beam dot : Bool) : Style :=
  if beam then (if dot then .dotted else .normal) else .off

end Sys2Proof.Machine
end

