-- ==== Sys2Proof/WellFormed.lean ====
section
/-! DEFINITION. Well-formed instructions: a raw word kept by an "unassigned" row is one of that
row's words (spec 30_encoding.md R89, R99), a display branch's operand has `DBLOCK_BITS` bits (R97),
and a combination to which R105 gives a name is written by that name (notes/assumptions 2), so that
every word has one spelling. -/

namespace Sys2Proof

/-- The micro-operation words of class 1 that R105 names, bits in the order NH, ODA, CML, CLL, IAC,
CMA, CLA. -/
def namedOprs : List (Bool × Bool × Bool × Bool × Bool × Bool × Bool) :=
  [(false, false, false, false, false, false, false),  -- HLT
   (true, false, false, false, false, false, false),   -- NOP
   (true, false, false, false, false, false, true),    -- CLA
   (true, false, false, false, false, true, false),    -- CMA
   (true, false, false, false, false, true, true),     -- STA
   (true, false, false, false, true, false, false),    -- IAC
   (true, false, false, false, true, false, true),     -- COA
   (true, false, false, false, true, true, false),     -- CIA
   (true, false, false, true, false, false, false),    -- CLL
   (true, false, false, true, false, false, true),     -- CAL
   (true, false, true, false, false, false, false),    -- CML
   (true, false, true, true, false, false, false),     -- STL
   (true, true, false, false, false, false, false),    -- ODA
   (true, true, false, false, false, false, true)]     -- LDA

/-- R105 names a class 3 word with exactly one condition bit. -/
def singleConditions : List (BitVec 9) :=
  [0x001, 0x002, 0x004, 0x008, 0x010, 0x020, 0x040, 0x080, 0x100]

/-- The display micro-operation words that R105 names: no micro-operation but one of the first
seven with no function, or a function alone with any constant (DSTS, DSTB, DLPN). -/
def namedDoprs : List (Bool × Bool × Bool × Bool × Bool × Bool × Bool × Bool) :=
  [(false, false, false, false, false, false, false, false),  -- DHLT
   (true, false, false, false, false, false, false, false),   -- DNOP
   (true, true, false, false, false, false, false, false),    -- DHVC
   (true, false, true, false, false, false, false, false),    -- DIXM
   (true, false, false, true, false, false, false, false),    -- DIYM
   (true, false, false, false, true, false, false, false),    -- DDXM
   (true, false, false, false, false, true, false, false),    -- DDYM
   (true, false, false, false, false, false, true, false),    -- DRJM
   (true, false, false, false, false, false, false, true)]    -- DDSP

/-- A display micro-operation word that R105 names. -/
def isNamedDopr (bits : Bool × Bool × Bool × Bool × Bool × Bool × Bool × Bool) (f c : BitVec 2) :
    Bool :=
  (f == 0 && c == 0 && namedDoprs.contains bits)
    || (f != 0 && bits == (true, false, false, false, false, false, false, false))

/-- `WellFormed` of an instruction, given `DBLOCK_BITS`; every other constructor is well formed with
any operands. -/
def Instr.wf (dblockBits : Nat) : Instr → Bool
  | .opr nh b5 b4 b3 b2 b1 b0 => !(namedOprs.contains (nh, b5, b4, b3, b2, b1, b0))
  | .ral on cnt => !(on && cnt == 0)
  | .skp _ cond => !(singleConditions.contains cond)
  | .iot code => !(displayCodes.contains code)
  | .dopr nh sync ixm iym dxm dym rjm dsp f c =>
      !(isNamedDopr (nh, sync, ixm, iym, dxm, dym, rjm, dsp) f c)
  | .djms a | .djmp a => decide (a.toNat < 2 ^ dblockBits)
  | .unassignedIot w => w &&& 0xFE00 == 0x8200
  | .unassignedShift w => w &&& 0xFE00 == 0x8600
  | .unassignedOrder3 w => w &&& 0x7800 == 0x1800
  | .unassignedOrder8 w => w &&& 0x7800 == 0x4000
  | .unassignedDisplay w => w &&& 0x7000 == 0x7000 && w &&& sgr1Mask != sgr1Match
  | _ => true

end Sys2Proof
end

