-- ==== Sys2Proof/Decode.lean ====
section
/-! DEFINITION. The three decoders (spec 30_encoding.md R82 to R100) and the encoder written from
the same tables. A decoder is total: a word without a decoding becomes the row "(unassigned)" that
holds it, whose meaning is the error R89 and R99 name; too few bytes are rejected by name. -/

namespace Sys2Proof

/-! ## Named combinations (R105) -/

/-- Class 1, bits in the order NH, ODA, CML, CLL, IAC, CMA, CLA. -/
def nameOpr (nh oda cml cll iac cma cla : Bool) : Instr :=
  match nh, oda, cml, cll, iac, cma, cla with
  | false, false, false, false, false, false, false => .hlt
  | true, false, false, false, false, false, false => .nop
  | true, false, false, false, false, false, true => .cla
  | true, false, false, false, false, true, false => .cma
  | true, false, false, false, false, true, true => .sta
  | true, false, false, false, true, false, false => .iac
  | true, false, false, false, true, false, true => .coa
  | true, false, false, false, true, true, false => .cia
  | true, false, false, true, false, false, false => .cll
  | true, false, false, true, false, false, true => .cal
  | true, false, true, false, false, false, false => .cml
  | true, false, true, true, false, false, false => .stl
  | true, true, false, false, false, false, false => .oda
  | true, true, false, false, false, false, true => .lda
  | nh, oda, cml, cll, iac, cma, cla => .opr nh oda cml cll iac cma cla

/-- Class 2 with SOP = 0: DON is the encoding with no rotation and the display-on flag. -/
def nameRal (don : Bool) (cnt : BitVec 2) : Instr :=
  if don && cnt == 0 then .don else .ral don cnt

/-- Class 3: the eighteen words with one condition bit. -/
def nameSkp (neg : Bool) (cond : BitVec 9) : Instr :=
  if cond = 0x001 then (if neg then .asn else .asz)
  else if cond = 0x002 then (if neg then .asm else .asp)
  else if cond = 0x004 then (if neg then .lsn else .lsz)
  else if cond = 0x008 then (if neg then .dsn else .dsf)
  else if cond = 0x010 then (if neg then .ksn else .ksf)
  else if cond = 0x020 then (if neg then .rsn else .rsf)
  else if cond = 0x040 then (if neg then .tsn else .tsf)
  else if cond = 0x080 then (if neg then .ssn else .ssf)
  else if cond = 0x100 then (if neg then .hsn else .hsf)
  else .skp neg cond

/-- IOT: the Display Processor's four codes. -/
def nameIot (code : IotCode) : Instr :=
  if code = 0x003 then .dla
  else if code = 0x00A then .dof
  else if code = 0x039 then .scf
  else if code = 0x0C4 then .drs
  else .iot code

/-- DOPR: one micro-operation alone, or a function alone. -/
def nameDopr (nh sync ixm iym dxm dym rjm dsp : Bool) (f c : BitVec 2) : Instr :=
  if f = 0 ∧ c = 0 then
    match nh, sync, ixm, iym, dxm, dym, rjm, dsp with
    | false, false, false, false, false, false, false, false => .dhlt
    | true, false, false, false, false, false, false, false => .dnop
    | true, true, false, false, false, false, false, false => .dhvc
    | true, false, true, false, false, false, false, false => .dixm
    | true, false, false, true, false, false, false, false => .diym
    | true, false, false, false, true, false, false, false => .ddxm
    | true, false, false, false, false, true, false, false => .ddym
    | true, false, false, false, false, false, true, false => .drjm
    | true, false, false, false, false, false, false, true => .ddsp
    | nh, sync, ixm, iym, dxm, dym, rjm, dsp => .dopr nh sync ixm iym dxm dym rjm dsp f c
  else
    match nh, sync, ixm, iym, dxm, dym, rjm, dsp with
    | true, false, false, false, false, false, false, false =>
      if f = 1 then .dsts c
      else if f = 2 then .dstb c
      else if f = 3 then .dlpn c
      else .dopr true false false false false false false false f c
    | nh, sync, ixm, iym, dxm, dym, rjm, dsp => .dopr nh sync ixm iym dxm dym rjm dsp f c

/-- The primary row a named combination expands to (R105, column "expands to"); every other
instruction is its own expansion. -/
def Instr.expand : Instr → Instr
  | .hlt => .opr false false false false false false false
  | .nop => .opr true false false false false false false
  | .cla => .opr true false false false false false true
  | .cma => .opr true false false false false true false
  | .sta => .opr true false false false false true true
  | .iac => .opr true false false false true false false
  | .coa => .opr true false false false true false true
  | .cia => .opr true false false false true true false
  | .cll => .opr true false false true false false false
  | .cal => .opr true false false true false false true
  | .cml => .opr true false true false false false false
  | .stl => .opr true false true true false false false
  | .oda => .opr true true false false false false false
  | .lda => .opr true true false false false false true
  | .don => .ral true 0
  | .asz => .skp false 0x001
  | .asn => .skp true 0x001
  | .asp => .skp false 0x002
  | .asm => .skp true 0x002
  | .lsz => .skp false 0x004
  | .lsn => .skp true 0x004
  | .dsf => .skp false 0x008
  | .dsn => .skp true 0x008
  | .ksf => .skp false 0x010
  | .ksn => .skp true 0x010
  | .rsf => .skp false 0x020
  | .rsn => .skp true 0x020
  | .tsf => .skp false 0x040
  | .tsn => .skp true 0x040
  | .ssf => .skp false 0x080
  | .ssn => .skp true 0x080
  | .hsf => .skp false 0x100
  | .hsn => .skp true 0x100
  | .dla => .iot 0x003
  | .dof => .iot 0x00A
  | .scf => .iot 0x039
  | .drs => .iot 0x0C4
  | .dhlt => .dopr false false false false false false false false 0 0
  | .dnop => .dopr true false false false false false false false 0 0
  | .dhvc => .dopr true true false false false false false false 0 0
  | .dixm => .dopr true false true false false false false false 0 0
  | .diym => .dopr true false false true false false false false 0 0
  | .ddxm => .dopr true false false false true false false false 0 0
  | .ddym => .dopr true false false false false true false false 0 0
  | .drjm => .dopr true false false false false false true false 0 0
  | .ddsp => .dopr true false false false false false false true 0 0
  | .dsts c => .dopr true false false false false false false false 1 c
  | .dstb c => .dopr true false false false false false false false 2 c
  | .dlpn c => .dopr true false false false false false false false 3 c
  | i => i

/-! ## The Main Processor's decoder -/

/-- Class 1 (R83): bits 8:6 are ignored. -/
def decodeOpr (w : Word) : Instr :=
  nameOpr (w.getLsbD 15) (w.getLsbD 5) (w.getLsbD 4) (w.getLsbD 3) (w.getLsbD 2) (w.getLsbD 1)
    (w.getLsbD 0)

/-- Class 2 (R84): SOP in bits 5:4, bits 8:7 and 3:2 ignored. -/
def decodeShift (w : Word) : Instr :=
  let don := w.getLsbD 6
  let cnt := w.extractLsb' 0 2
  match w.getLsbD 5, w.getLsbD 4 with
  | false, false => nameRal don cnt
  | false, true => .rar don cnt
  | true, false => .sal don cnt
  | true, true => .sar don cnt

/-- Class 3 (R85). -/
def decodeSkp (w : Word) : Instr :=
  nameSkp (w.getLsbD 15) (w.extractLsb' 0 9)

/-- The orders (R87): OP = w[14:11] of a word that failed the four tests before. -/
def decodeOrder (w : Word) : Instr :=
  let ind := w.getLsbD 15
  let d := w.extractLsb' 0 11
  let op := w.extractLsb' 11 4
  if op = 0x1 then (if ind then .lwc d else .law d)
  else if op = 0x2 then .jmp ind d
  else if op = 0x3 then .unassignedOrder3 w
  else if op = 0x4 then .dac ind d
  else if op = 0x5 then .xam ind d
  else if op = 0x6 then .isz ind d
  else if op = 0x7 then .jms ind d
  else if op = 0x8 then .unassignedOrder8 w
  else if op = 0x9 then .and ind d
  else if op = 0xA then .ior ind d
  else if op = 0xB then .xor ind d
  else if op = 0xC then .lac ind d
  else if op = 0xD then .add ind d
  else if op = 0xE then .sub ind d
  else if op = 0xF then .sam ind d
  else if w &&& 0xFE00 = 0x8200 then .unassignedIot w
  else .unassignedShift w

/-- The cascade of R82: the first pattern that matches. Words that match none of the five are kept
whole by the rows of R89. -/
def decodeMainWord (w : Word) : Instr :=
  if w &&& 0x7E00 = 0x0000 then decodeOpr w
  else if w &&& 0xFE00 = 0x0600 then decodeShift w
  else if w &&& 0x7E00 = 0x0400 then decodeSkp w
  else if w &&& 0xFE00 = 0x0200 then nameIot (w.extractLsb' 0 9)
  else decodeOrder w

/-! ## The Display Processor's decoders -/

/-- DOPR (R93): DDATA = w[11:0]. -/
def decodeDopr (w : Word) : Instr :=
  nameDopr (w.getLsbD 11) (w.getLsbD 10) (w.getLsbD 9) (w.getLsbD 8) (w.getLsbD 7) (w.getLsbD 6)
    (w.getLsbD 5) (w.getLsbD 4) (w.extractLsb' 2 2) (w.extractLsb' 0 2)

/-- The operand of DJMS and DJMP: the low `DBLOCK_BITS` bits of the word's data (R92, R97). -/
def branchField (dblockBits : Nat) (a : BitVec 12) : BitVec 12 :=
  BitVec.ofNat 12 (a.toNat % 2 ^ dblockBits)

/-- Processor mode (R92), given `DBLOCK_BITS`: selected by DOP = w[14:12]; bit 15 is ignored (R91). -/
def decodeDisplayWord (dblockBits : Nat) (w : Word) : Instr :=
  let dop := w.extractLsb' 12 3
  if dop = 0 then decodeDopr w
  else if dop = 1 then .dlxa (w.extractLsb' 0 10)
  else if dop = 2 then .dlya (w.extractLsb' 0 10)
  else if dop = 3 then .deim (w.extractLsb' 0 8)
  else if dop = 4 then .dlvh (w.extractLsb' 0 12)
  else if dop = 5 then .djms (branchField dblockBits (w.extractLsb' 0 12))
  else if dop = 6 then .djmp (branchField dblockBits (w.extractLsb' 0 12))
  else if w &&& sgr1Mask = sgr1Match then .sgr1 (w.getLsbD 2) (w.getLsbD 1) (w.getLsbD 0)
  else .unassignedDisplay w

/-- A half of Increment mode (R100): bit 7 selects the vector or the control format. -/
def decodeHalf (h : Byte) : Instr :=
  if h.getLsbD 7 then
    .incVec (h.getLsbD 6) (h.getLsbD 5) (h.extractLsb' 3 2) (h.getLsbD 2) (h.extractLsb' 0 2)
  else
    .incCtl (h.getLsbD 6) (h.getLsbD 5) (h.getLsbD 4) (h.getLsbD 3) (h.getLsbD 2) (h.getLsbD 1)

/-! ## Decoding bytes -/

/-- Why bytes are rejected. An unassigned word is no rejection here: it decodes to its row. -/
inductive DecodeError where
  /-- fewer bytes than the unit of decoding needs -/
  | truncated
  deriving DecidableEq, Repr

/-- The decoders over bytes, given `DBLOCK_BITS`, a word's high byte first (notes/assumptions 3); the
rest of the bytes comes back. Words 1 and 2 of a long vector are data, not decoded (R68). -/
def decode (dblockBits : Nat) : Decoder → List Byte → Except DecodeError (Instr × List Byte)
  | .main, hi :: lo :: rest => .ok (decodeMainWord (hi ++ lo), rest)
  | .display, hi :: lo :: rest => .ok (decodeDisplayWord dblockBits (hi ++ lo), rest)
  | .half, h :: rest => .ok (decodeHalf h, rest)
  | _, _ => .error .truncated

/-- The instruction of an opcode-table row (bits numbered as the table numbers them): eight bits are
a half, sixteen a Main word, forty-eight the three words of a long vector. Sixteen bits do not say
which processor fetches the word (R10); they are read as the Main Processor reads them,
and `DBLOCK_BITS` has its default (notes/assumptions 4). -/
def decodeTableWord (nbits w : Nat) : Option Instr :=
  let word : Word := BitVec.ofNat 16 w
  let hi : Byte := word.extractLsb' 8 8
  let lo : Byte := word.extractLsb' 0 8
  let k := Params.default.dblockBits
  let answer : Except DecodeError (Instr × List Byte) :=
    if nbits = 8 then decode k .half [lo]
    else if nbits = 16 then decode k .main [hi, lo]
    else if nbits = 48 then decode k .display [hi, lo]
    else .error .truncated
  match answer with
  | .ok (i, _) => some i
  | .error _ => none

/-! ## The encoder -/

/-- Format M-OPR (R81), ignored bits 0. -/
def encodeOpr (nh oda cml cll iac cma cla : Bool) : Word :=
  BitVec.ofBool nh ++ (0 : BitVec 6) ++ (0 : BitVec 3) ++ BitVec.ofBool oda ++ BitVec.ofBool cml
    ++ BitVec.ofBool cll ++ BitVec.ofBool iac ++ BitVec.ofBool cma ++ BitVec.ofBool cla

/-- Format M-SFT (R81), ignored bits 0. -/
def encodeShift (sop : BitVec 2) (don : Bool) (cnt : BitVec 2) : Word :=
  (0b0000011 : BitVec 7) ++ (0 : BitVec 2) ++ BitVec.ofBool don ++ sop ++ (0 : BitVec 2) ++ cnt

/-- Format M-SKP (R81). -/
def encodeSkp (neg : Bool) (cond : BitVec 9) : Word :=
  BitVec.ofBool neg ++ (0b000010 : BitVec 6) ++ cond

/-- Format M-IOT (R81). -/
def encodeIot (code : IotCode) : Word :=
  (0b0000001 : BitVec 7) ++ code

/-- Formats M-IMM and M-ORD (R81, R87). -/
def encodeOrder (ind : Bool) (op : BitVec 4) (d : BitVec 11) : Word :=
  BitVec.ofBool ind ++ op ++ d

/-- Format D with opcode DOPR (R91, R93), bit 15 0. -/
def encodeDopr (nh sync ixm iym dxm dym rjm dsp : Bool) (f c : BitVec 2) : Word :=
  (0b0000 : BitVec 4) ++ BitVec.ofBool nh ++ BitVec.ofBool sync ++ BitVec.ofBool ixm
    ++ BitVec.ofBool iym ++ BitVec.ofBool dxm ++ BitVec.ofBool dym ++ BitVec.ofBool rjm
    ++ BitVec.ofBool dsp ++ f ++ c

/-- The word of a primary row of either processor (R81, R87, R91 to R98); the unassigned rows hold
their word, and a half has none of its own (its byte is `encodeHalf`). -/
def encodePrimary : Instr → Word
  | .opr nh oda cml cll iac cma cla => encodeOpr nh oda cml cll iac cma cla
  | .ral don cnt => encodeShift 0 don cnt
  | .rar don cnt => encodeShift 1 don cnt
  | .sal don cnt => encodeShift 2 don cnt
  | .sar don cnt => encodeShift 3 don cnt
  | .skp neg cond => encodeSkp neg cond
  | .iot code => encodeIot code
  | .law imm => encodeOrder false 0x1 imm
  | .lwc imm => encodeOrder true 0x1 imm
  | .jmp ind d => encodeOrder ind 0x2 d
  | .dac ind d => encodeOrder ind 0x4 d
  | .xam ind d => encodeOrder ind 0x5 d
  | .isz ind d => encodeOrder ind 0x6 d
  | .jms ind d => encodeOrder ind 0x7 d
  | .and ind d => encodeOrder ind 0x9 d
  | .ior ind d => encodeOrder ind 0xA d
  | .xor ind d => encodeOrder ind 0xB d
  | .lac ind d => encodeOrder ind 0xC d
  | .add ind d => encodeOrder ind 0xD d
  | .sub ind d => encodeOrder ind 0xE d
  | .sam ind d => encodeOrder ind 0xF d
  | .unassignedIot w | .unassignedShift w | .unassignedOrder3 w | .unassignedOrder8 w
  | .unassignedDisplay w => w
  | .dopr nh sync ixm iym dxm dym rjm dsp f c => encodeDopr nh sync ixm iym dxm dym rjm dsp f c
  | .dlxa v => (0b0001 : BitVec 4) ++ (0 : BitVec 2) ++ v
  | .dlya v => (0b0010 : BitVec 4) ++ (0 : BitVec 2) ++ v
  | .deim b => (0b0011 : BitVec 4) ++ (0 : BitVec 4) ++ b
  | .dlvh hint => (0b0100 : BitVec 4) ++ hint
  | .djms a => (0b0101 : BitVec 4) ++ a
  | .djmp a => (0b0110 : BitVec 4) ++ a
  | .sgr1 beam ret enter =>
      (0b0111111111001 : BitVec 13) ++ BitVec.ofBool beam ++ BitVec.ofBool ret
        ++ BitVec.ofBool enter
  | _ => 0

/-- The word of an instruction: a named combination is the word of its expansion (R105). -/
def encodeWord (i : Instr) : Word := encodePrimary i.expand

/-- The byte of an Increment-mode half (R100), ignored bit 0. -/
def encodeHalf : Instr → Byte
  | .incVec beam xneg xmag yneg ymag =>
      (1 : BitVec 1) ++ BitVec.ofBool beam ++ BitVec.ofBool xneg ++ xmag ++ BitVec.ofBool yneg
        ++ ymag
  | .incCtl esc rjm ixm zxl iym zyl =>
      (0 : BitVec 1) ++ BitVec.ofBool esc ++ BitVec.ofBool rjm ++ BitVec.ofBool ixm
        ++ BitVec.ofBool zxl ++ BitVec.ofBool iym ++ BitVec.ofBool zyl ++ (0 : BitVec 1)
  | _ => 0

/-- The bytes of an instruction, high byte first. -/
def encode (i : Instr) : List Byte :=
  match i.decoder with
  | .half => [encodeHalf i]
  | _ => [(encodeWord i).extractLsb' 8 8, (encodeWord i).extractLsb' 0 8]

/-! ## The decoded records (R90, R101) -/

/-- The opcode tags of R90. -/
inductive MainOpcode where
  | opr | ral | rar | sal | sar | skp | iot | law | lwc | jmp | dac | xam | isz | jms | and | ior
  | xor | lac | add | sub | sam
  deriving DecidableEq, Repr

/-- The decoded Main instruction as R90 lists its fields; `dev` and `iop` are an IOT's only (R86), and
no other record has them. -/
structure MainRecord where
  opcode : MainOpcode
  data : BitVec 11
  indirect : Bool := false
  skipNegate : Bool := false
  displayOn : Bool := false
  halt : Bool := false
  isOperateOrIot : Bool := false
  dev : Option (BitVec 6) := none
  iop : Option (BitVec 3) := none
  deriving DecidableEq, Repr

/-- The record of an order with a memory operand. -/
def orderRecord (op : MainOpcode) (ind : Bool) (d : BitVec 11) : MainRecord :=
  { opcode := op, data := d, indirect := ind }

/-- The record of a class 2 instruction. -/
def shiftRecord (op : MainOpcode) (on : Bool) (cnt : BitVec 2) : MainRecord :=
  { opcode := op, data := cnt.zeroExtend 11, displayOn := on, isOperateOrIot := true }

/-- The record of R90: a named combination has that of its expansion; the unassigned rows and the
Display Processor's instructions have none. -/
def mainRecord (i : Instr) : Option MainRecord :=
  match i.expand with
  | .opr nh b5 b4 b3 b2 b1 b0 =>
      some { opcode := .opr, data := (encodeOpr nh b5 b4 b3 b2 b1 b0 &&& 0x3F).extractLsb' 0 11,
             halt := !nh, isOperateOrIot := true }
  | .ral on cnt => some (shiftRecord .ral on cnt)
  | .rar on cnt => some (shiftRecord .rar on cnt)
  | .sal on cnt => some (shiftRecord .sal on cnt)
  | .sar on cnt => some (shiftRecord .sar on cnt)
  | .skp neg cond =>
      some { opcode := .skp, data := cond.zeroExtend 11, skipNegate := neg, isOperateOrIot := true }
  | .iot code =>
      some { opcode := .iot, data := code.zeroExtend 11, isOperateOrIot := true,
             dev := some (code.extractLsb' 3 6), iop := some (code.extractLsb' 0 3) }
  | .law imm => some { opcode := .law, data := imm }
  | .lwc imm => some { opcode := .lwc, data := imm }
  | .jmp ind d => some (orderRecord .jmp ind d)
  | .dac ind d => some (orderRecord .dac ind d)
  | .xam ind d => some (orderRecord .xam ind d)
  | .isz ind d => some (orderRecord .isz ind d)
  | .jms ind d => some (orderRecord .jms ind d)
  | .and ind d => some (orderRecord .and ind d)
  | .ior ind d => some (orderRecord .ior ind d)
  | .xor ind d => some (orderRecord .xor ind d)
  | .lac ind d => some (orderRecord .lac ind d)
  | .add ind d => some (orderRecord .add ind d)
  | .sub ind d => some (orderRecord .sub ind d)
  | .sam ind d => some (orderRecord .sam ind d)
  | _ => none

/-- The opcode tags of R101. -/
inductive DisplayOpcode where
  | dopr | dlxa | dlya | deim | dlvh | djms | djmp | sgr1
  deriving DecidableEq, Repr

/-- The decoded Display instruction of R101; its usage tag is kept apart (R34, R278). -/
structure DisplayRecord where
  opcode : DisplayOpcode
  data : BitVec 12
  deriving DecidableEq, Repr

/-- The record of R101, the data field as R92 gives it: the operand that the decoder read. -/
def displayRecord (i : Instr) : Option DisplayRecord :=
  match i.expand with
  | .dopr nh sync ixm iym dxm dym rjm dsp f c =>
      some ⟨.dopr, (encodeDopr nh sync ixm iym dxm dym rjm dsp f c).extractLsb' 0 12⟩
  | .dlxa v => some ⟨.dlxa, v.zeroExtend 12⟩
  | .dlya v => some ⟨.dlya, v.zeroExtend 12⟩
  | .deim b => some ⟨.deim, b.zeroExtend 12⟩
  | .dlvh hint => some ⟨.dlvh, hint⟩
  | .djms a => some ⟨.djms, a⟩
  | .djmp a => some ⟨.djmp, a⟩
  | .sgr1 beam ret enter =>
      some ⟨.sgr1, (BitVec.ofBool beam ++ BitVec.ofBool ret ++ BitVec.ofBool enter).zeroExtend 12⟩
  | _ => none

end Sys2Proof
end

