-- ==== Sys2Proof/Machine/Memory.lean ====
section
/-! DEFINITION. Tables by address in one canonical form, and the words of memory over them
(spec 20_memory.md R50 to R54). -/

namespace Sys2Proof.Machine

/-- The value at a key. -/
def lookup {α : Type} (k : Nat) : List (Nat × α) → Option α
  | [] => none
  | (a, v) :: rest => if a = k then some v else lookup k rest

/-- Set the value at a key, keeping the keys rising. -/
def insertAt {α : Type} (k : Nat) (v : α) : List (Nat × α) → List (Nat × α)
  | [] => [(k, v)]
  | (a, w) :: rest =>
    if k < a then (k, v) :: (a, w) :: rest
    else if k = a then (k, v) :: rest
    else (a, w) :: insertAt k v rest

/-- Remove a key. -/
def eraseAt {α : Type} (k : Nat) : List (Nat × α) → List (Nat × α)
  | [] => []
  | (a, w) :: rest => if a = k then eraseAt k rest else (a, w) :: eraseAt k rest

/-- The keys are strictly rising. -/
def rising {α : Type} : List (Nat × α) → Bool
  | [] => true
  | (a, _) :: rest => rest.all (fun e => decide (a < e.1)) && rising rest

/-- What an unlisted byte of memory reads as: its content at power-on, a free value (R364,
notes/assumptions 9). -/
def unlistedByte (k : Nat) : Byte := Config.powerOnByte k

/-- The canonical form of memory: addresses strictly rising. Listed are exactly the bytes stored since
power-on, so that one history of stores has one list (notes/assumptions 9). -/
def memoryWf (m : List Host.Cell) : Bool := rising m

/-- One byte of memory. -/
def readByte (m : List Host.Cell) (k : Nat) : Byte :=
  (lookup k m).getD (unlistedByte k)

/-- Set one byte of memory. -/
def writeByte (m : List Host.Cell) (k : Nat) (v : Byte) : List Host.Cell :=
  insertAt k v m

/-- `M[a]` (R36): the high byte lies first (notes/assumptions 3). -/
def readWord (m : List Host.Cell) (a : Nat) : Word :=
  readByte m (2 * a) ++ readByte m (2 * a + 1)

/-- `M[a] <- v`. -/
def writeWord (m : List Host.Cell) (a : Nat) (v : Word) : List Host.Cell :=
  writeByte (writeByte m (2 * a) (v.extractLsb' 8 8)) (2 * a + 1) (v.extractLsb' 0 8)

end Sys2Proof.Machine
end

