-- ==== Sys2Proof/Machine/Ops.lean ====
section
/-! DEFINITION. The named operations over the state: memory through the Word Store port, the decode
caches, the sink and the log, completion of a Main instruction, the frame counter, the display
return and breakpoint test, reset, and the raising of a fatal error. -/

namespace Sys2Proof.Machine

/-- Replace the Main Processor. -/
def State.onMain (s : State) (f : MainRegs → MainRegs) : State := { s with main := f s.main }

/-- Replace the Display Processor. -/
def State.onDisp (s : State) (f : DispRegs → DispRegs) : State := { s with disp := f s.disp }

/-! ## Addresses -/

/-- `MASK_A` (R2). -/
def maskA (p : Params) : Word := BitVec.ofNat 16 (2 ^ p.addrBits - 1)

/-- `& MASK_A` (R3): every address is reduced before it is used or kept. -/
def State.mask (s : State) (a : Word) : Word := a &&& maskA s.params

/-- The bits of BLOCK: `ADDR_BITS - DBLOCK_BITS` of them, none if that is not positive (R21). -/
def blockMask (p : Params) : Word := BitVec.ofNat 16 (2 ^ (p.addrBits - p.dblockBits) - 1)

/-! ## The Word Store port -/

/-- `MemRead(addr, 1)` (R51). -/
def memRead (s : State) (addr : Word) : Word := readWord s.mem (s.mask addr).toNat

/-- `MemWrite(addr, 1, v)` (R52): the word, and the slot of both caches with its usage tag, as one
action. -/
def memWrite (s : State) (addr v : Word) : State :=
  let a := (s.mask addr).toNat
  { s with
    mem := writeWord s.mem a v
    mcache := eraseAt a s.mcache
    dcache := eraseAt a s.dcache
    usage := eraseAt a s.usage }

/-! ## The decode caches -/

/-- An "(unassigned)" row: a word without a decoding, which no cache holds (R64). -/
def isUnassigned : Instr → Bool
  | .unassignedIot _ | .unassignedShift _ | .unassignedOrder3 _ | .unassignedOrder8 _
  | .unassignedDisplay _ => true
  | _ => false

/-- `get_or_decode` on MCACHE (R64, R82). An unassigned word leaves the slot absent. -/
def fetchMainWord (s : State) (addr : Word) : Instr × State :=
  let a := (s.mask addr).toNat
  match lookup a s.mcache with
  | some i => (i, s)
  | none =>
    let i := decodeMainWord (memRead s addr)
    (i, if isUnassigned i then s else { s with mcache := insertAt a i s.mcache })

/-- `get_or_decode` on DCACHE in Processor mode (R64, R92), and the tag Processor (R252). An
unassigned word leaves the slot absent and no tag. -/
def fetchDisplayWord (s : State) (addr : Word) : Instr × State :=
  let a := (s.mask addr).toNat
  let tagged (s : State) : State := { s with usage := insertAt a .processor s.usage }
  match lookup a s.dcache with
  | some i => (i, tagged s)
  | none =>
    let i := decodeDisplayWord s.params.dblockBits (memRead s addr)
    (i, if isUnassigned i then s else tagged { s with dcache := insertAt a i s.dcache })

/-! ## Outputs -/

/-- `emit e` (R38): append an event to the sink trace. -/
def emit (e : SinkEvent) (s : State) : State := { s with sink := s.sink ++ [e] }

/-- `log(text)` (R326). -/
def logEvent (e : LogEvent) (s : State) : State := { s with log := s.log ++ [e] }

/-- `move_absolute(X, Y, style)` at the present position (R38). -/
def emitMove (style : Style) (s : State) : State :=
  emit (.moveAbsolute s.disp.x s.disp.y style) s

/-! ## Errors and breakpoints -/

/-- `raise UnimplementedInstruction(word, address)` (R320, R321). The machine has no trap entry
and no return from one (R331, R332): raising a fatal error is the whole of it. -/
def raiseUnimplemented (w addr : Word) : Result := .fault (.unimplementedInstruction w addr)

/-- `BP(kind, addr)` (R37 (a)). -/
def breakpointAt (s : State) (kind : BreakKind) (addr : Word) : Bool :=
  s.inputs.breakpoints.contains ⟨kind, addr⟩

/-- A Main breakpoint hit (R127, R128): BreakpointHalt, and the address is recorded. -/
def hitMainBreakpoint (addr : Word) (s : State) : State :=
  s.onMain fun m => { m with mstate := .breakpointHalt, bpAddr := addr }

/-! ## The Main Processor's completion and data-switch poll -/

/-- `Complete()` (R127): write PC, then test the Execution breakpoint at the new PC unless the
instruction halted the processor. -/
def complete (next : Word) (s : State) : State :=
  let pc := s.mask next
  let s1 := s.onMain fun m => { m with pc := pc }
  if s1.main.mstate ≠ .halted ∧ breakpointAt s1 .execution pc = true then hitMainBreakpoint pc s1
  else s1

/-- The data-switch poll (R130). -/
def pollSwitches (s : State) : State :=
  if s.inputs.mapping then s.onMain fun m => { m with ds := s.inputs.switches } else s

/-- The instruction of one `MainStep`: fetched in the Fetch transition, the latched IR in the two
others (R121 to R123, R17). -/
def nextMainInstr (s : State) : Instr × State :=
  match s.main.fsm with
  | .fetch => fetchMainWord s s.main.pc
  | .defer => (s.main.ir, s)
  | .execute => (s.main.ir, s)

/-! ## The Display Processor's step -/

/-- `FrameTick` (R251): before anything else of a `DispStep`, in every DSTATE. -/
def frameTick (s : State) : State :=
  let n := s.disp.frameCnt + 1
  if s.params.frameCycles < n then
    emit .frameDone (s.onDisp fun d => { d with frameCnt := 0, frameLatch := true })
  else s.onDisp fun d => { d with frameCnt := n }

/-- The half that is consumed next (R300, R301). -/
def currentHalf (d : DispRegs) : Byte :=
  match d.half with
  | .first => d.immWord.extractLsb' 8 8
  | .second => d.immWord.extractLsb' 0 8

/-- The instruction of one `DispStep`: the word at DPC in Processor mode, a half of IMMWORD in
Increment mode (R102, R250, R252, R300). -/
def nextDisplayInstr (s : State) : Instr × State :=
  match s.disp.dmode with
  | .processor => fetchDisplayWord s s.disp.dpc
  | .increment => (decodeHalf (currentHalf s.disp), s)

/-- `Return()` (R253): the popped address, or, on an empty stack, the address the enclosing
instruction would go to, with a log entry. -/
def displayReturn (dnext : Word) (s : State) : Word × State :=
  match s.disp.dstack with
  | [] => (dnext, logEvent .displayStackUnderflow s)
  | top :: rest => (top, s.onDisp fun d => { d with dstack := rest })

/-- `DisplayBreakpointTest` (R276, R307): at a word boundary, unless the step halted the
processor. -/
def displayBreakpointTest (s : State) : State :=
  if s.disp.dstate = .running ∧ (s.disp.dmode = .processor ∨ s.disp.half = .first)
      ∧ breakpointAt s .display s.disp.dpc = true then
    s.onDisp fun d => { d with dstate := .breakpointHalt, bpAddr := s.disp.dpc }
  else s

/-- The Display Processor is told to leave the Halted state (R195, R240); Running and
BreakpointHalt stay. -/
def resumeHaltedDisplay (s : State) : State :=
  if s.disp.dstate = .halted then s.onDisp fun d => { d with dstate := .running } else s

/-! ## Reset -/

/-- `Reset()` (R360): memory, the configuration, the inputs, IR and EA keep their values
(R364, R365, R17, R18), and one event is emitted. -/
def applyReset (s : State) : State :=
  emit (.moveAbsolute 0 0 .off)
    { s with
      main := { MainRegs.reset with
        pc := s.mask s.params.bootAddress
        mstate := s.params.mainResetState
        ir := s.main.ir
        ea := s.main.ea }
      disp := DispRegs.reset
      mcache := []
      dcache := []
      usage := [] }

end Sys2Proof.Machine
end

