-- ==== Sys2Proof/Machine/Operands.lean ====
section
/-! DEFINITION. Every operand form, and the shapes in which the instructions run: the Main Processor's
three transitions (spec 40_main_fsm.md R121 to R125, R150), the Display Processor's Processor-mode
instruction (44 R252, R277) and Increment-mode half (45 R304 to R306). -/

namespace Sys2Proof.Machine

/-! ## Main Processor operands -/

/-- The address an 11-bit operand names (R124): the page bits of PC, the operand below them. -/
def pageAddress (s : State) (d : BitVec 11) : Word :=
  s.mask ((s.main.pc &&& ~~~pageOffsetMask) ||| d.zeroExtend 16)

/-- The auto-increment test (R125): on the pointer cell's own page offset. -/
def isIndexCell (p : Word) : Bool :=
  decide (indexLo ≤ p &&& pageOffsetMask) && decide (p &&& pageOffsetMask ≤ indexHi)

/-- The auto-increment (R122, R125): the cell's content plus 1, stored before it is read. -/
def autoIncrement (p : Word) (s : State) : State :=
  if isIndexCell p then memWrite s p (memRead s p + 1) else s

/-- The Defer transition (R122). -/
def deferTransition (d : BitVec 11) (s : State) : State :=
  let p := pageAddress s d
  let s1 := autoIncrement p s
  let ea := s1.mask (memRead s1 p)
  s1.onMain fun m => { m with ea := ea, fsm := .execute }

/-- `ReadOp()` (R150): the Read breakpoint first, then the word at EA. -/
def readOp (s : State) : Word × State :=
  let s1 := if breakpointAt s .read s.main.ea then hitMainBreakpoint s.main.ea s else s
  (memRead s s.main.ea, s1)

/-- `WriteOp(v)` (R150): the Write breakpoint first, then the store at EA. -/
def writeOp (v : Word) (s : State) : State :=
  let s1 := if breakpointAt s .write s.main.ea then hitMainBreakpoint s.main.ea s else s
  memWrite s1 s.main.ea v

/-- Write AC and L. -/
def setAccumulator (a : Accumulator) (s : State) : State :=
  s.onMain fun m => { m with ac := a.ac, l := a.l }

/-- AC and L. -/
def State.accumulator (s : State) : Accumulator := { ac := s.main.ac, l := s.main.l }

/-- Write AC alone. -/
def setAc (v : Word) (s : State) : State := s.onMain fun m => { m with ac := v }

/-- The address of the next instruction, and that of the one after it (R126). -/
def pcNext (s : State) : Word := s.main.pc + 1
def pcSkip (s : State) : Word := s.main.pc + 2

/-! ## How a Main instruction runs -/

/-- `Perform` (R123): the instruction's effect, and `next`, the address it goes on at. -/
abbrev Perform := State → State × Word

/-- IR latched by the Fetch transition, and the state it goes to (R121). -/
def latch (i : Instr) (dest : Fsm) (s : State) : State :=
  s.onMain fun m => { m with ir := i, fsm := dest }

/-- The Execute transition (R123): EA of a direct instruction, the effect, the completion, and back
to Fetch. -/
def executeTransition (ind : Bool) (d : BitVec 11) (perform : Perform) (s : State) : State :=
  let s1 := if ind then s else s.onMain fun m => { m with ea := pageAddress s d }
  let r := perform s1
  (complete r.2 r.1).onMain fun m => { m with fsm := .fetch }

/-- One `MainStep` of an order (R121 to R123): Fetch latches it and goes to Defer if it is indirect,
else to Execute. -/
def runOrder (i : Instr) (ind : Bool) (d : BitVec 11) (perform : Perform) (s : State) : Result :=
  match s.main.fsm with
  | .fetch => .next (latch i (if ind then .defer else .execute) s)
  | .defer => .next (deferTransition d s)
  | .execute => .next (executeTransition ind d perform s)

/-- One `MainStep` of an operate-class instruction (R121): all of it in the Fetch transition. -/
def runOperate (i : Instr) (perform : Perform) (s : State) : Result :=
  let r := perform (latch i .fetch s)
  .next (complete r.2 r.1)

/-! ## How a Display instruction runs -/

/-- Where a Processor-mode instruction goes on by default (R252). -/
def dpcNext (s : State) : Word := s.disp.dpc + 1

/-- One Processor-mode instruction (R252): its effect gives the state and `dnext`. -/
def runDisplay (perform : Perform) (s : State) : Result :=
  let r := perform s
  .next (r.1.onDisp fun d => { d with dpc := r.1.mask r.2 })

/-- The branch target of DJMS and DJMP (R277). The operand of a decoded branch is already its low
`DBLOCK_BITS` bits; of any other operand those bits are taken, as R277 says. -/
def branchTarget (s : State) (a : BitVec 12) : Word :=
  s.mask ((s.disp.block <<< s.params.dblockBits) |||
    (branchField s.params.dblockBits a).zeroExtend 16)

/-- The magnitude field of a long-vector word, `LV_MAG_BITS` bits (R96). -/
def magnitude (p : Params) (w : Word) : Nat := w.toNat % 2 ^ p.lvMagBits

/-- Write X, and Y. -/
def setX (v : Dac) (s : State) : State := s.onDisp fun d => { d with x := v }
def setY (v : Dac) (s : State) : State := s.onDisp fun d => { d with y := v }

/-- Do something only when a bit is set. -/
def whenSet (set : Bool) (f : State → State) (s : State) : State := if set then f s else s

/-- `NextHalf` (R306): the second half, or the next word captured at once, with its tag. -/
def nextHalf (s : State) : State :=
  match s.disp.half with
  | .first => s.onDisp fun d => { d with half := .second }
  | .second =>
    let dpc := s.mask (dpcNext s)
    let w := memRead s dpc
    let s1 := s.onDisp fun d => { d with dpc := dpc, immWord := w, half := .first }
    { s1 with usage := insertAt dpc.toNat .increment s1.usage }

/-- `Escape` (R304, R305): back to Processor mode, past the captured word or to the popped address. -/
def escape (rjm : Bool) (s : State) : State :=
  let s1 := s.onDisp fun d => { d with dmode := .processor }
  let r := if rjm then displayReturn (dpcNext s1) s1 else (dpcNext s1, s1)
  r.2.onDisp fun d => { d with dpc := r.2.mask r.1 }

end Sys2Proof.Machine
end

