-- ==== Sys2Proof/Machine/Display.lean ====
section
/-! DEFINITION. The Display Processor's Processor-mode instructions (spec 44_display_processor_mode.md
R254 to R275) and the named combinations of DOPR. -/

namespace Sys2Proof.Machine

/-! ## DOPR -/

/-- One DAC micro-operation of R254: the coordinate changes, then a move is emitted. -/
def stepX (negative : Bool) (s : State) : State :=
  emitMove .off (setX (dacMove s.disp.x negative s.params.dacMsbStep.toNat) s)
def stepY (negative : Bool) (s : State) : State :=
  emitMove .off (setY (dacMove s.disp.y negative s.params.dacMsbStep.toNat) s)

/-- The function field F with its constant C (R264 to R268). -/
def displayFunction (f c : BitVec 2) (s : State) : State :=
  if f = 1 then s.onDisp fun d => { d with scale := scaleOf c }
  else if f = 2 then s.onDisp fun d => { d with block := c.zeroExtend 16 &&& blockMask s.params }
  else s

/-- `Perform` of DOPR (R254), the set bits in descending order. -/
def performDopr (nh sync ixm iym dxm dym rjm dsp : Bool) (f c : BitVec 2) (s : State) :
    State × Word :=
  let s1 := whenSet (!nh) (fun s => s.onDisp fun d => { d with dstate := .halted }) s
  let s2 := whenSet sync (emitMove .off) s1
  let s3 := whenSet ixm (stepX false) s2
  let s4 := whenSet iym (stepY false) s3
  let s5 := whenSet dxm (stepX true) s4
  let s6 := whenSet dym (stepY true) s5
  let r := if rjm then displayReturn (dpcNext s) s6 else (dpcNext s, s6)
  let s7 := whenSet dsp (fun s => emit (.drawPoint s.disp.x s.disp.y) s) r.2
  (displayFunction f c s7, r.1)

/-! ## The other instructions -/

/-- The move style of a position load (R269). -/
def loadStyle (s : State) : Style :=
  if s.disp.sgrEnter && s.disp.sgrBeam then .extended else .off

/-- After a position load (R269, R270): the move, then the return if SGR_RET is set. -/
def finishLoad (s : State) : State × Word :=
  let s1 := emitMove (loadStyle s) s
  let r := if s1.disp.sgrRet then displayReturn (dpcNext s1) s1 else (dpcNext s1, s1)
  (r.2, r.1)

/-- DLXA (R269). -/
def performDlxa (v : BitVec 10) (s : State) : State × Word := finishLoad (setX (doubled v) s)

/-- DLYA (R270). -/
def performDlya (v : BitVec 10) (s : State) : State × Word := finishLoad (setY (doubled v) s)

/-- DEIM (R271): the word itself is captured, its low byte first; DPC stays. -/
def performDeim (b : BitVec 8) (s : State) : State × Word :=
  (s.onDisp fun d => { d with dmode := .increment, immWord := b.zeroExtend 16, half := .second },
    s.disp.dpc)

/-- DLVH (R272): words 1 and 2 are read as data. -/
def performDlvh (s : State) : State × Word :=
  let w1 := memRead s (s.disp.dpc + 1)
  let w2 := memRead s (s.disp.dpc + 2)
  let m := magnitude s.params w1
  let n := magnitude s.params w2
  let dyg := w2.getLsbD 12
  let dx := scaled (if dyg then n else m) s.disp.scale
  let dy := scaled (if dyg then m else n) s.disp.scale
  let s1 := setX (dacMove s.disp.x (w2.getLsbD 14) dx) s
  let s2 := setY (dacMove s1.disp.y (w2.getLsbD 13) dy) s1
  (emitMove (lineStyle (w1.getLsbD 13) (w1.getLsbD 14)) s2, s.disp.dpc + 3)

/-- DJMS (R273). -/
def performDjms (a : BitVec 12) (s : State) : State × Word :=
  (s.onDisp fun d => { d with dstack := s.mask (dpcNext s) :: d.dstack }, branchTarget s a)

/-- DJMP (R274). -/
def performDjmp (a : BitVec 12) (s : State) : State × Word := (s, branchTarget s a)

/-- SGR1 (R275): all three flags are written. -/
def performSgr1 (beam ret enter : Bool) (s : State) : State × Word :=
  (s.onDisp fun d => { d with sgrEnter := enter, sgrRet := ret, sgrBeam := beam }, dpcNext s)

/-! ## Meanings -/

/-- DOPR (R254). -/
def execDopr (nh sync ixm iym dxm dym rjm dsp : Bool) (f c : BitVec 2) (s : State) : Result :=
  runDisplay (performDopr nh sync ixm iym dxm dym rjm dsp f c) s

/-- DLXA (R269). -/
def execDlxa (v : BitVec 10) (s : State) : Result := runDisplay (performDlxa v) s

/-- DLYA (R270). -/
def execDlya (v : BitVec 10) (s : State) : Result := runDisplay (performDlya v) s

/-- DEIM (R271). -/
def execDeim (b : BitVec 8) (s : State) : Result := runDisplay (performDeim b) s

/-- DLVH (R272): the hint field of word 0 is ignored. -/
def execDlvh (_hint : BitVec 12) (s : State) : Result := runDisplay performDlvh s

/-- DJMS (R273). -/
def execDjms (a : BitVec 12) (s : State) : Result := runDisplay (performDjms a) s

/-- DJMP (R274). -/
def execDjmp (a : BitVec 12) (s : State) : Result := runDisplay (performDjmp a) s

/-- SGR1 (R275). -/
def execSgr1 (beam ret enter : Bool) (s : State) : Result :=
  runDisplay (performSgr1 beam ret enter) s

/-- DHLT (R255). -/
def execDhlt (s : State) : Result :=
  runDisplay (performDopr false false false false false false false false 0 0) s

/-- DNOP (R256). -/
def execDnop (s : State) : Result :=
  runDisplay (performDopr true false false false false false false false 0 0) s

/-- DHVC (R257). -/
def execDhvc (s : State) : Result :=
  runDisplay (performDopr true true false false false false false false 0 0) s

/-- DIXM (R258). -/
def execDixm (s : State) : Result :=
  runDisplay (performDopr true false true false false false false false 0 0) s

/-- DIYM (R259). -/
def execDiym (s : State) : Result :=
  runDisplay (performDopr true false false true false false false false 0 0) s

/-- DDXM (R260). -/
def execDdxm (s : State) : Result :=
  runDisplay (performDopr true false false false true false false false 0 0) s

/-- DDYM (R261). -/
def execDdym (s : State) : Result :=
  runDisplay (performDopr true false false false false true false false 0 0) s

/-- DRJM (R262). -/
def execDrjm (s : State) : Result :=
  runDisplay (performDopr true false false false false false true false 0 0) s

/-- DDSP (R263). -/
def execDdsp (s : State) : Result :=
  runDisplay (performDopr true false false false false false false true 0 0) s

/-- DSTS (R265). -/
def execDsts (c : BitVec 2) (s : State) : Result :=
  runDisplay (performDopr true false false false false false false false 1 c) s

/-- DSTB (R266). -/
def execDstb (c : BitVec 2) (s : State) : Result :=
  runDisplay (performDopr true false false false false false false false 2 c) s

/-- DLPN (R268). -/
def execDlpn (c : BitVec 2) (s : State) : Result :=
  runDisplay (performDopr true false false false false false false false 3 c) s

end Sys2Proof.Machine
end

