-- ==== Sys2Proof/Machine/Increment.lean ====
section
/-! DEFINITION. The Display Processor's Increment mode (spec 45_display_increment_mode.md R300 to R308):
the vector half and the control half. -/

namespace Sys2Proof.Machine

/-- `VectorHalf` (R302). -/
def vectorHalf (beam xneg : Bool) (xmag : BitVec 2) (yneg : Bool) (ymag : BitVec 2) (s : State) :
    State :=
  let dx := scaled xmag.toNat s.disp.scale
  let dy := scaled ymag.toNat s.disp.scale
  let s1 := setX (dacMove s.disp.x xneg dx) s
  let s2 := setY (dacMove s1.disp.y yneg dy) s1
  emitMove (if beam then .normal else .off) s2

/-- The DAC operations of a control half (R303), in descending bit order, and the one move after
them. -/
def controlDacs (ixm zxl iym zyl : Bool) (s : State) : State :=
  let step := s.params.dacMsbStep.toNat
  let keep := ~~~s.params.dacLsbMask
  let s1 := whenSet ixm (fun s => setX (dacMove s.disp.x false step) s) s
  let s2 := whenSet zxl (fun s => setX (s.disp.x &&& keep) s) s1
  let s3 := whenSet iym (fun s => setY (dacMove s.disp.y false step) s) s2
  let s4 := whenSet zyl (fun s => setY (s.disp.y &&& keep) s) s3
  whenSet (ixm || zxl || iym || zyl) (emitMove .off) s4

/-- INC.VEC (R302, R306). -/
def execIncVec (beam xneg : Bool) (xmag : BitVec 2) (yneg : Bool) (ymag : BitVec 2) (s : State) :
    Result :=
  .next (nextHalf (vectorHalf beam xneg xmag yneg ymag s))

/-- INC.CTL (R303 to R306): without ESC the return bit has no effect. -/
def execIncCtl (esc rjm ixm zxl iym zyl : Bool) (s : State) : Result :=
  let s1 := controlDacs ixm zxl iym zyl s
  .next (if esc then escape rjm s1 else nextHalf s1)

end Sys2Proof.Machine
end

