-- ==== Sys2Proof/Machine/Iot.lean ====
section
/-! DEFINITION. The IOT instruction, the registry that routes its code, the Display Processor's four
codes and external devices (spec 43_main_iot.md R230 to R242). -/

namespace Sys2Proof.Machine

/-! ## The registry -/

/-- The fatal configuration error (R235, R323). It is raised at registration, before any step: a
configuration that raises it has no machine. -/
inductive ConfigError where
  | iotRegistryConflict (code : IotCode)
  deriving DecidableEq, Repr

/-- `REG[code]` (R35). -/
def owner (r : Registry) (code : IotCode) : Option Device :=
  match r with
  | [] => none
  | (c, d) :: rest => if c = code then some d else owner rest code

/-- A device claims one code (R234, R235). -/
def registerCode (d : Device) (code : IotCode) (r : Registry) : Except ConfigError Registry :=
  match owner r code with
  | some _ => .error (.iotRegistryConflict code)
  | none => .ok (r ++ [(code, d)])

/-- A device claims its `handled_codes()` in turn (R234). -/
def registerCodes (d : Device) : List IotCode → Registry → Except ConfigError Registry
  | [], r => .ok r
  | c :: rest, r =>
    match registerCode d c r with
    | .ok r1 => registerCodes d rest r1
    | .error e => .error e

/-- Registration at system initialisation (R234): every device of the configuration. -/
def registerDevices : List (Device × List IotCode) → Registry → Except ConfigError Registry
  | [], r => .ok r
  | (d, codes) :: rest, r =>
    match registerCodes d codes r with
    | .ok r1 => registerDevices rest r1
    | .error e => .error e

/-! ## Handlers -/

/-- DLA's handler (R237): DPC, BLOCK and DENTRY from AC. -/
def loadDpc (s : State) : State :=
  let a := s.mask s.main.ac
  s.onDisp fun d => { d with dpc := a, block := a >>> s.params.dblockBits, dentry := a }

/-- DOF's handler (R238): from any state. -/
def haltDisplay (s : State) : State := s.onDisp fun d => { d with dstate := .halted }

/-- SCF's handler (R239). -/
def clearFrameLatch (s : State) : State := s.onDisp fun d => { d with frameLatch := false }

/-- The Display Processor's `execute_iot` (R237 to R241). -/
def displayIot (code : IotCode) (s : State) : Except Fault State :=
  if code = 0x003 then .ok (loadDpc s)
  else if code = 0x00A then .ok (haltDisplay s)
  else if code = 0x039 then .ok (clearFrameLatch s)
  else if code = 0x0C4 then .ok (resumeHaltedDisplay s)
  else .error (.unimplementedDisplayIot code)

/-- An external device's `execute_iot` (R236): the free value `Config.deviceReply` within its frame,
AC, the readiness inputs and the devices' private state. R236 lets a handler change "the readiness
inputs of R37", where D20 and U22 say its own flags, and nothing says which are whose: DESIGN CHOICE
(notes/assumptions 5), the reply of any device may replace all four. -/
def externalIot (id : Nat) (code : IotCode) (s : State) : State :=
  let r := Config.deviceReply id code s.main.ac s.main.l s.inputs.ready s.devices
  { s with
    main := { s.main with ac := r.ac }
    inputs := { s.inputs with ready := r.ready }
    devices := r.devices }

/-- The three cases of R230 in their order: ignored (R232), registered (R231), unowned (R233). -/
def dispatchIot (code : IotCode) (s : State) : Except Fault State :=
  if s.params.ignoredIotCode = some code then .ok s
  else
    match owner s.params.registry code with
    | some .display => displayIot code s
    | some (.external id) => .ok (externalIot id code s)
    | none => .ok (logEvent (.unregisteredIot code) s)

/-- One `MainStep` of an IOT (R121, R230): the dispatch, then PC advances by one. A fatal error
leaves no state (R322). -/
def runIot (i : Instr) (code : IotCode) (s : State) : Result :=
  let s1 := latch i .fetch s
  match dispatchIot code s1 with
  | .ok s2 => .next (complete (pcNext s1) s2)
  | .error f => .fault f

/-! ## Meanings -/

/-- IOT (R230). -/
def execIot (code : IotCode) (s : State) : Result := runIot (.iot code) code s

/-- DLA (R237). -/
def execDla (s : State) : Result := runIot .dla 0x003 s

/-- DOF (R238). -/
def execDof (s : State) : Result := runIot .dof 0x00A s

/-- SCF (R239). -/
def execScf (s : State) : Result := runIot .scf 0x039 s

/-- DRS (R240). -/
def execDrs (s : State) : Result := runIot .drs 0x0C4 s

end Sys2Proof.Machine
end

