-- ==== Sys2Proof/Machine/Opr.lean ====
section
/-! DEFINITION. Class 1 (spec 42_main_operate.md R180 to R194): the micro-operations on AC and L, the
halt, and the fourteen named combinations. -/

namespace Sys2Proof.Machine

/-- `Perform` of a class 1 instruction (R180): the phases, then the halt if NH is clear. -/
def performOpr (nh oda cml cll iac cma cla : Bool) (s : State) : State × Word :=
  let s1 := setAccumulator (oprPhases oda cml cll iac cma cla s.main.ds s.accumulator) s
  (if nh then s1 else s1.onMain fun m => { m with mstate := .halted }, pcNext s)

/-- OPR (R180). -/
def execOpr (nh oda cml cll iac cma cla : Bool) (s : State) : Result :=
  runOperate (.opr nh oda cml cll iac cma cla) (performOpr nh oda cml cll iac cma cla) s

/-- HLT (R181). -/
def execHlt (s : State) : Result :=
  runOperate .hlt (performOpr false false false false false false false) s

/-- NOP (R182). -/
def execNop (s : State) : Result :=
  runOperate .nop (performOpr true false false false false false false) s

/-- CLA (R183). -/
def execCla (s : State) : Result :=
  runOperate .cla (performOpr true false false false false false true) s

/-- CMA (R184). -/
def execCma (s : State) : Result :=
  runOperate .cma (performOpr true false false false false true false) s

/-- STA, CLA and CMA (R185). -/
def execSta (s : State) : Result :=
  runOperate .sta (performOpr true false false false false true true) s

/-- IAC (R186). -/
def execIac (s : State) : Result :=
  runOperate .iac (performOpr true false false false true false false) s

/-- COA, CLA and IAC (R187). -/
def execCoa (s : State) : Result :=
  runOperate .coa (performOpr true false false false true false true) s

/-- CIA, CMA and IAC (R188). -/
def execCia (s : State) : Result :=
  runOperate .cia (performOpr true false false false true true false) s

/-- CLL (R189). -/
def execCll (s : State) : Result :=
  runOperate .cll (performOpr true false false true false false false) s

/-- CAL, CLA and CLL (R194). -/
def execCal (s : State) : Result :=
  runOperate .cal (performOpr true false false true false false true) s

/-- CML (R190). -/
def execCml (s : State) : Result :=
  runOperate .cml (performOpr true false true false false false false) s

/-- STL, CLL and CML (R191). -/
def execStl (s : State) : Result :=
  runOperate .stl (performOpr true false true true false false false) s

/-- ODA (R192). -/
def execOda (s : State) : Result :=
  runOperate .oda (performOpr true true false false false false false) s

/-- LDA, CLA and ODA (R193). -/
def execLda (s : State) : Result :=
  runOperate .lda (performOpr true true false false false false true) s

end Sys2Proof.Machine
end

