-- ==== Sys2Proof/Machine/Orders.lean ====
section
/-! DEFINITION. The fourteen memory-reference orders (spec 41_main_memory_reference.md R150 to R165). Each
effect runs in the Execute transition, with EA set. -/

namespace Sys2Proof.Machine

/-! ## Effects -/

/-- LAW (R151): the immediate, zero-extended. -/
def performLaw (imm : BitVec 11) (s : State) : State × Word :=
  (setAc (imm.zeroExtend 16) s, pcNext s)

/-- LWC (R152): the two's complement of the immediate. -/
def performLwc (imm : BitVec 11) (s : State) : State × Word :=
  (setAc (-(imm.zeroExtend 16)) s, pcNext s)

/-- JMP (R153): no access at EA. -/
def performJmp (s : State) : State × Word := (s, s.main.ea)

/-- DAC (R154). -/
def performDac (s : State) : State × Word := (writeOp s.main.ac s, pcNext s)

/-- XAM (R155): Read, then Write, in one step. -/
def performXam (s : State) : State × Word :=
  let t := readOp s
  (setAc t.1 (writeOp s.main.ac t.2), pcNext s)

/-- ISZ (R156): Read, then Write, in one step; the word is stored also when the skip is taken. -/
def performIsz (s : State) : State × Word :=
  let t := readOp s
  let v := t.1 + 1
  (writeOp v t.2, if v = 0 then pcSkip s else pcNext s)

/-- JMS (R157): the return address at EA, and on at EA + 1. -/
def performJms (s : State) : State × Word :=
  (writeOp (s.mask (pcNext s)) s, s.main.ea + 1)

/-- The orders that read EA and leave a value in AC, L untouched (R158 to R161). -/
def performLogic (f : Word → Word → Word) (s : State) : State × Word :=
  let t := readOp s
  (setAc (f s.main.ac t.1) t.2, pcNext s)

/-- ADD and SUB (R162, R163): AC and L. -/
def performArith (f : Accumulator → Word → Accumulator) (s : State) : State × Word :=
  let t := readOp s
  (setAccumulator (f s.accumulator t.1) t.2, pcNext s)

/-- SAM (R164): all 16 bits are compared. -/
def performSam (s : State) : State × Word :=
  let t := readOp s
  (t.2, if s.main.ac = t.1 then pcSkip s else pcNext s)

/-! ## Meanings -/

/-- LAW (R151). -/
def execLaw (imm : BitVec 11) (s : State) : Result :=
  runOrder (.law imm) false imm (performLaw imm) s

/-- LWC (R152). -/
def execLwc (imm : BitVec 11) (s : State) : Result :=
  runOrder (.lwc imm) false imm (performLwc imm) s

/-- JMP (R153). -/
def execJmp (ind : Bool) (addr : BitVec 11) (s : State) : Result :=
  runOrder (.jmp ind addr) ind addr performJmp s

/-- DAC (R154). -/
def execDac (ind : Bool) (addr : BitVec 11) (s : State) : Result :=
  runOrder (.dac ind addr) ind addr performDac s

/-- XAM (R155). -/
def execXam (ind : Bool) (addr : BitVec 11) (s : State) : Result :=
  runOrder (.xam ind addr) ind addr performXam s

/-- ISZ (R156). -/
def execIsz (ind : Bool) (addr : BitVec 11) (s : State) : Result :=
  runOrder (.isz ind addr) ind addr performIsz s

/-- JMS (R157). -/
def execJms (ind : Bool) (addr : BitVec 11) (s : State) : Result :=
  runOrder (.jms ind addr) ind addr performJms s

/-- AND (R158). -/
def execAnd (ind : Bool) (addr : BitVec 11) (s : State) : Result :=
  runOrder (.and ind addr) ind addr (performLogic fun ac m => ac &&& m) s

/-- IOR (R159). -/
def execIor (ind : Bool) (addr : BitVec 11) (s : State) : Result :=
  runOrder (.ior ind addr) ind addr (performLogic fun ac m => ac ||| m) s

/-- XOR (R160). -/
def execXor (ind : Bool) (addr : BitVec 11) (s : State) : Result :=
  runOrder (.xor ind addr) ind addr (performLogic fun ac m => ac ^^^ m) s

/-- LAC (R161). -/
def execLac (ind : Bool) (addr : BitVec 11) (s : State) : Result :=
  runOrder (.lac ind addr) ind addr (performLogic fun _ m => m) s

/-- ADD (R162). -/
def execAdd (ind : Bool) (addr : BitVec 11) (s : State) : Result :=
  runOrder (.add ind addr) ind addr (performArith addLink) s

/-- SUB (R163). -/
def execSub (ind : Bool) (addr : BitVec 11) (s : State) : Result :=
  runOrder (.sub ind addr) ind addr (performArith subLink) s

/-- SAM (R164). -/
def execSam (ind : Bool) (addr : BitVec 11) (s : State) : Result :=
  runOrder (.sam ind addr) ind addr performSam s

end Sys2Proof.Machine
end

