-- ==== Sys2Proof/Machine/Shift.lean ====
section
/-! DEFINITION. Class 2 (spec 42_main_operate.md R195 to R200): rotates, shifts, display-on. -/

namespace Sys2Proof.Machine

/-- `Perform` of a class 2 instruction (R195): the single-position operation `cnt` times, then the
display-on flag. -/
def performShift (step1 : Accumulator → Accumulator) (on : Bool) (cnt : BitVec 2) (s : State) :
    State × Word :=
  (whenSet on resumeHaltedDisplay (setAccumulator (iterate step1 cnt.toNat s.accumulator) s),
    pcNext s)

/-- RAL (R196). -/
def execRal (on : Bool) (cnt : BitVec 2) (s : State) : Result :=
  runOperate (.ral on cnt) (performShift rotateLeft1 on cnt) s

/-- RAR (R197). -/
def execRar (on : Bool) (cnt : BitVec 2) (s : State) : Result :=
  runOperate (.rar on cnt) (performShift rotateRight1 on cnt) s

/-- SAL (R198). -/
def execSal (on : Bool) (cnt : BitVec 2) (s : State) : Result :=
  runOperate (.sal on cnt) (performShift shiftLeft1 on cnt) s

/-- SAR (R199). -/
def execSar (on : Bool) (cnt : BitVec 2) (s : State) : Result :=
  runOperate (.sar on cnt) (performShift shiftRight1 on cnt) s

/-- DON (R200): no rotation, the display-on flag. -/
def execDon (s : State) : Result :=
  runOperate .don (performShift rotateLeft1 true 0) s

end Sys2Proof.Machine
end

