-- ==== Sys2Proof/Machine/Skip.lean ====
section
/-! DEFINITION. Class 3 (spec 42_main_operate.md R201 to R220): the conditional skip and its eighteen
single-condition encodings. -/

namespace Sys2Proof.Machine

/-- `Perform` of a class 3 instruction (R201): it changes nothing but where the program goes on. -/
def performSkp (neg : Bool) (cond : BitVec 9) (s : State) : State × Word :=
  (s, if skipTest neg cond s then pcSkip s else pcNext s)

/-- SKP (R201, R220). -/
def execSkp (neg : Bool) (cond : BitVec 9) (s : State) : Result :=
  runOperate (.skp neg cond) (performSkp neg cond) s

/-- ASZ: AC-zero (R202). -/
def execAsz (s : State) : Result :=
  runOperate .asz (performSkp false 0x001) s

/-- ASN: AC-zero, negated (R203). -/
def execAsn (s : State) : Result :=
  runOperate .asn (performSkp true 0x001) s

/-- ASP: AC-nonnegative (R204). -/
def execAsp (s : State) : Result :=
  runOperate .asp (performSkp false 0x002) s

/-- ASM: AC-nonnegative, negated (R205). -/
def execAsm (s : State) : Result :=
  runOperate .asm (performSkp true 0x002) s

/-- LSZ: Link-zero (R206). -/
def execLsz (s : State) : Result :=
  runOperate .lsz (performSkp false 0x004) s

/-- LSN: Link-zero, negated (R207). -/
def execLsn (s : State) : Result :=
  runOperate .lsn (performSkp true 0x004) s

/-- DSF: display-running (R208). -/
def execDsf (s : State) : Result :=
  runOperate .dsf (performSkp false 0x008) s

/-- DSN: display-running, negated (R209). -/
def execDsn (s : State) : Result :=
  runOperate .dsn (performSkp true 0x008) s

/-- KSF: keyboard-ready (R210). -/
def execKsf (s : State) : Result :=
  runOperate .ksf (performSkp false 0x010) s

/-- KSN: keyboard-ready, negated (R211). -/
def execKsn (s : State) : Result :=
  runOperate .ksn (performSkp true 0x010) s

/-- RSF: TTY-input-ready (R212). -/
def execRsf (s : State) : Result :=
  runOperate .rsf (performSkp false 0x020) s

/-- RSN: TTY-input-ready, negated (R213). -/
def execRsn (s : State) : Result :=
  runOperate .rsn (performSkp true 0x020) s

/-- TSF: TTY-send-ready (R214). -/
def execTsf (s : State) : Result :=
  runOperate .tsf (performSkp false 0x040) s

/-- TSN: TTY-send-ready, negated (R215). -/
def execTsn (s : State) : Result :=
  runOperate .tsn (performSkp true 0x040) s

/-- SSF: frame-sync-latch (R216). -/
def execSsf (s : State) : Result :=
  runOperate .ssf (performSkp false 0x080) s

/-- SSN: frame-sync-latch, negated (R217). -/
def execSsn (s : State) : Result :=
  runOperate .ssn (performSkp true 0x080) s

/-- HSF: tape-reader-ready (R218). -/
def execHsf (s : State) : Result :=
  runOperate .hsf (performSkp false 0x100) s

/-- HSN: tape-reader-ready, negated (R219). -/
def execHsn (s : State) : Result :=
  runOperate .hsn (performSkp true 0x100) s

end Sys2Proof.Machine
end

