-- ==== Sys2Proof/Machine/Unassigned.lean ====
section
/-! DEFINITION. The unassigned words of both processors (spec 30_encoding.md R89, R99): fetching one
raises UnimplementedInstruction(word, address) (60_exceptions.md R320, R321). -/

namespace Sys2Proof.Machine

/-- 0x8200 to 0x83FF (R89, R320). -/
def execUnassignedIot (w : Word) (s : State) : Result := raiseUnimplemented w s.main.pc

/-- 0x8600 to 0x87FF (R89, R320). -/
def execUnassignedShift (w : Word) (s : State) : Result := raiseUnimplemented w s.main.pc

/-- 0x1800 to 0x1FFF and 0x9800 to 0x9FFF (R89, R320). -/
def execUnassignedOrder3 (w : Word) (s : State) : Result := raiseUnimplemented w s.main.pc

/-- 0x4000 to 0x47FF and 0xC000 to 0xC7FF (R89, R320). -/
def execUnassignedOrder8 (w : Word) (s : State) : Result := raiseUnimplemented w s.main.pc

/-- A display word with DOP = 111 outside the SGR-1 pattern (R99, R321). -/
def execUnassignedDisplay (w : Word) (s : State) : Result := raiseUnimplemented w s.disp.dpc

end Sys2Proof.Machine
end

