-- ==== Sys2Proof/Machine/Dispatch.lean ====
section
/-! DEFINITION. The meaning of every instruction, one arm a constructor. -/

namespace Sys2Proof.Machine

def exec (i : Instr) (s : State) : Host.Outcome State Fault Refusal :=
  match i with
  | .opr nh oda cml cll iac cma cla => Sys2Proof.Machine.execOpr nh oda cml cll iac cma cla s
  | .ral don cnt => Sys2Proof.Machine.execRal don cnt s
  | .rar don cnt => Sys2Proof.Machine.execRar don cnt s
  | .sal don cnt => Sys2Proof.Machine.execSal don cnt s
  | .sar don cnt => Sys2Proof.Machine.execSar don cnt s
  | .skp neg cond => Sys2Proof.Machine.execSkp neg cond s
  | .iot code => Sys2Proof.Machine.execIot code s
  | .law imm => Sys2Proof.Machine.execLaw imm s
  | .lwc imm => Sys2Proof.Machine.execLwc imm s
  | .jmp ind addr => Sys2Proof.Machine.execJmp ind addr s
  | .dac ind addr => Sys2Proof.Machine.execDac ind addr s
  | .xam ind addr => Sys2Proof.Machine.execXam ind addr s
  | .isz ind addr => Sys2Proof.Machine.execIsz ind addr s
  | .jms ind addr => Sys2Proof.Machine.execJms ind addr s
  | .and ind addr => Sys2Proof.Machine.execAnd ind addr s
  | .ior ind addr => Sys2Proof.Machine.execIor ind addr s
  | .xor ind addr => Sys2Proof.Machine.execXor ind addr s
  | .lac ind addr => Sys2Proof.Machine.execLac ind addr s
  | .add ind addr => Sys2Proof.Machine.execAdd ind addr s
  | .sub ind addr => Sys2Proof.Machine.execSub ind addr s
  | .sam ind addr => Sys2Proof.Machine.execSam ind addr s
  | .unassignedIot w => Sys2Proof.Machine.execUnassignedIot w s
  | .unassignedShift w => Sys2Proof.Machine.execUnassignedShift w s
  | .unassignedOrder3 w => Sys2Proof.Machine.execUnassignedOrder3 w s
  | .unassignedOrder8 w => Sys2Proof.Machine.execUnassignedOrder8 w s
  | .hlt => Sys2Proof.Machine.execHlt s
  | .nop => Sys2Proof.Machine.execNop s
  | .cla => Sys2Proof.Machine.execCla s
  | .cma => Sys2Proof.Machine.execCma s
  | .sta => Sys2Proof.Machine.execSta s
  | .iac => Sys2Proof.Machine.execIac s
  | .coa => Sys2Proof.Machine.execCoa s
  | .cia => Sys2Proof.Machine.execCia s
  | .cll => Sys2Proof.Machine.execCll s
  | .cal => Sys2Proof.Machine.execCal s
  | .cml => Sys2Proof.Machine.execCml s
  | .stl => Sys2Proof.Machine.execStl s
  | .oda => Sys2Proof.Machine.execOda s
  | .lda => Sys2Proof.Machine.execLda s
  | .don => Sys2Proof.Machine.execDon s
  | .asz => Sys2Proof.Machine.execAsz s
  | .asn => Sys2Proof.Machine.execAsn s
  | .asp => Sys2Proof.Machine.execAsp s
  | .asm => Sys2Proof.Machine.execAsm s
  | .lsz => Sys2Proof.Machine.execLsz s
  | .lsn => Sys2Proof.Machine.execLsn s
  | .dsf => Sys2Proof.Machine.execDsf s
  | .dsn => Sys2Proof.Machine.execDsn s
  | .ksf => Sys2Proof.Machine.execKsf s
  | .ksn => Sys2Proof.Machine.execKsn s
  | .rsf => Sys2Proof.Machine.execRsf s
  | .rsn => Sys2Proof.Machine.execRsn s
  | .tsf => Sys2Proof.Machine.execTsf s
  | .tsn => Sys2Proof.Machine.execTsn s
  | .ssf => Sys2Proof.Machine.execSsf s
  | .ssn => Sys2Proof.Machine.execSsn s
  | .hsf => Sys2Proof.Machine.execHsf s
  | .hsn => Sys2Proof.Machine.execHsn s
  | .dla => Sys2Proof.Machine.execDla s
  | .dof => Sys2Proof.Machine.execDof s
  | .scf => Sys2Proof.Machine.execScf s
  | .drs => Sys2Proof.Machine.execDrs s
  | .dopr nh sync ixm iym dxm dym rjm dsp f c => Sys2Proof.Machine.execDopr nh sync ixm iym dxm dym rjm dsp f c s
  | .dlxa v => Sys2Proof.Machine.execDlxa v s
  | .dlya v => Sys2Proof.Machine.execDlya v s
  | .deim b => Sys2Proof.Machine.execDeim b s
  | .dlvh hint => Sys2Proof.Machine.execDlvh hint s
  | .djms a => Sys2Proof.Machine.execDjms a s
  | .djmp a => Sys2Proof.Machine.execDjmp a s
  | .sgr1 beam ret enter => Sys2Proof.Machine.execSgr1 beam ret enter s
  | .unassignedDisplay w => Sys2Proof.Machine.execUnassignedDisplay w s
  | .dhlt => Sys2Proof.Machine.execDhlt s
  | .dnop => Sys2Proof.Machine.execDnop s
  | .dhvc => Sys2Proof.Machine.execDhvc s
  | .dixm => Sys2Proof.Machine.execDixm s
  | .diym => Sys2Proof.Machine.execDiym s
  | .ddxm => Sys2Proof.Machine.execDdxm s
  | .ddym => Sys2Proof.Machine.execDdym s
  | .drjm => Sys2Proof.Machine.execDrjm s
  | .ddsp => Sys2Proof.Machine.execDdsp s
  | .dsts c => Sys2Proof.Machine.execDsts c s
  | .dstb c => Sys2Proof.Machine.execDstb c s
  | .dlpn c => Sys2Proof.Machine.execDlpn c s
  | .incVec beam xneg xmag yneg ymag => Sys2Proof.Machine.execIncVec beam xneg xmag yneg ymag s
  | .incCtl esc rjm ixm zxl iym zyl => Sys2Proof.Machine.execIncCtl esc rjm ixm zxl iym zyl s

end Sys2Proof.Machine
end

