-- ==== Sys2Proof/Machine/Driver.lean ====
section
/-! DEFINITION. One step of each processor around `exec` (spec 40_main_fsm.md R120, 44 R250), and what
each request of the host does (00_scope.md R4, 40 R132, 70 R360, R374). -/

namespace Sys2Proof.Machine

/-- `MainStep` (R120, R129): nothing unless Running; else the data-switch poll, then one transition
of the instruction in progress. -/
def mainStep (s : State) : Result :=
  if s.main.mstate = .running then
    let r := nextMainInstr (pollSwitches s)
    exec r.1 r.2
  else .next s

/-- `DispStep` (R250): the frame counter in every DSTATE; then, only if Running, one instruction or
one half, and the Display breakpoint test. -/
def dispStep (s : State) : Result :=
  let s1 := frameTick s
  if s1.disp.dstate = .running then
    let r := nextDisplayInstr s1
    match exec r.1 r.2 with
    | .next s2 => .next (displayBreakpointTest s2)
    | .fault f => .fault f
    | .refused f => .refused f
  else .next s1

/-- A deposit of a Main register (R132): PC, AC and L while the processor is not Running, DS at any
time (R4, R14), masked as the register's rule says: L is one bit (R13) and takes bit 0 (DEDUCED,
notes/assumptions 10). -/
def depositMain (reg : MainReg) (v : Word) (s : State) : Result :=
  match reg with
  | .ds => .next (s.onMain fun m => { m with ds := v })
  | .pc =>
    if s.main.mstate = .running then .refused .depositWhileRunning
    else .next (s.onMain fun m => { m with pc := s.mask v })
  | .ac =>
    if s.main.mstate = .running then .refused .depositWhileRunning
    else .next (s.onMain fun m => { m with ac := v })
  | .link =>
    if s.main.mstate = .running then .refused .depositWhileRunning
    else .next (s.onMain fun m => { m with l := v.getLsbD 0 })

/-- What a deposit leaves in a Display register (R374), in the register's own form. -/
def depositedDisplay (reg : DispReg) (v : Word) (s : State) : State :=
  match reg with
  | .dpc => s.onDisp fun d => { d with dpc := s.mask v }
  | .block => s.onDisp fun d => { d with block := v &&& blockMask s.params }
  | .x => setX (v.extractLsb' 0 11) s
  | .y => setY (v.extractLsb' 0 11) s
  | .scale => s.onDisp fun d => { d with scale := scaleOf (v.extractLsb' 0 2) }
  | .sgr =>
    s.onDisp fun d =>
      { d with sgrEnter := v.getLsbD 0, sgrRet := v.getLsbD 1, sgrBeam := v.getLsbD 2 }
  | .frameLatch => s.onDisp fun d => { d with frameLatch := v.getLsbD 0 }

/-- A deposit of a Display register, only while the processor is not Running (R374). -/
def depositDisplay (reg : DispReg) (v : Word) (s : State) : Result :=
  if s.disp.dstate = .running then .refused .depositWhileRunning
  else .next (depositedDisplay reg v s)

/-- A deposit of FRAMECNT, only while the processor is not Running (R374), of a count the register
can hold (R26). -/
def depositFrameCount (count : Nat) (s : State) : Result :=
  if s.disp.dstate = .running then .refused .depositWhileRunning
  else if count ≤ s.params.frameCycles then .next (s.onDisp fun d => { d with frameCnt := count })
  else .refused .depositOutOfRange

/-- A deposit of the Display Processor's return stack, only while the processor is not Running
(R374); every address is masked (R3). -/
def depositStack (addrs : List Word) (s : State) : Result :=
  if s.disp.dstate = .running then .refused .depositWhileRunning
  else .next (s.onDisp fun d => { d with dstack := addrs.map s.mask })

/-- The host resumes the Main Processor (R132): nothing else is changed. A resume of a Running
processor, which R132 does not give, changes nothing (DESIGN CHOICE, notes/assumptions 10). -/
def resumeMain (s : State) : State := s.onMain fun m => { m with mstate := .running }

/-- The host resumes the Display Processor from BreakpointHalt (R276); from Halted only the Main
Processor does (R28, R336). A resume while Running changes nothing (DESIGN CHOICE,
notes/assumptions 10). -/
def resumeDisplay (s : State) : Result :=
  match s.disp.dstate with
  | .halted => .refused .resumeOfHaltedDisplay
  | .running => .next s
  | .breakpointHalt => .next (s.onDisp fun d => { d with dstate := .running })

/-- One request of the host, to its end (R5). The inputs of R37 change by requests (R374): (a), (b) and
(c) each by its own, and (d), the external devices' behaviour, by a change of their private state
(DESIGN CHOICE, notes/assumptions 5). -/
def serve (r : HostRequest) (s : State) : Result :=
  match r with
  | .mainStep => mainStep s
  | .dispStep => dispStep s
  | .reset => .next (applyReset s)
  | .resumeMain => .next (resumeMain s)
  | .resumeDisplay => resumeDisplay s
  | .store addr v => .next (memWrite s addr v)
  | .depositMain reg v => depositMain reg v s
  | .depositDisplay reg v => depositDisplay reg v s
  | .depositFrameCount count => depositFrameCount count s
  | .depositStack addrs => depositStack addrs s
  | .setBreakpoints points => .next { s with inputs := { s.inputs with breakpoints := points } }
  | .setReadiness ready => .next { s with inputs := { s.inputs with ready := ready } }
  | .setSwitches mapping v =>
    .next { s with inputs := { s.inputs with mapping := mapping, switches := v } }
  | .setDevices devices => .next { s with devices := devices }

/-- The next request: the first of the agenda, and, when the agenda names none, the free schedule's
(R5, notes/assumptions 6). -/
def nextRequest (s : State) : HostRequest × State :=
  match s.agenda with
  | r :: rest => (r, { s with agenda := rest })
  | [] => (Config.hostRequest s.tick, { s with tick := s.tick + 1 })

/-- Place a Main instruction where the next `MainStep` fetches it, and ask for that step. -/
def placeMain (w : Word) (s : State) : State :=
  let s1 := memWrite s s.main.pc w
  { (s1.onMain fun m => { m with mstate := .running, fsm := .fetch }) with
    agenda := .mainStep :: s.agenda }

/-- Place a half as the first half of IMMWORD, the second being zero, and ask for a `DispStep`. -/
def placeHalf (h : Byte) (s : State) : State :=
  let s1 := s.onDisp fun d =>
    { d with dstate := .running, dmode := .increment, immWord := h ++ (0 : Byte), half := .first }
  { s1 with agenda := .dispStep :: s.agenda }

/-- Place three words where the next `DispStep` fetches a Processor-mode instruction, and ask for
that step. -/
def placeDisplay (w0 w1 w2 : Word) (s : State) : State :=
  let a := s.disp.dpc
  let s1 := memWrite (memWrite (memWrite s (a + 2) w2) (a + 1) w1) a w0
  { (s1.onDisp fun d => { d with dstate := .running, dmode := .processor }) with
    agenda := .dispStep :: s.agenda }

end Sys2Proof.Machine
end

