-- ==== Sys2Proof/Machine/Step.lean ====
section
/-! DEFINITION. The step: the host's next request, done to its end (spec 00_scope.md R5, R6). -/

namespace Sys2Proof.Machine

/-- One step of the machine. -/
def step (s : State) : Host.Outcome State Fault Refusal :=
  serve (nextRequest s).1 (nextRequest s).2

/-- The state with the instruction `w` of `nbits` bits where the next step fetches it, and the
request that runs it first on the agenda (notes/assumptions 4): a half of Increment mode for eight
bits, a Main word for sixteen, the three words of a long vector for forty-eight. -/
def State.withFetchWord (s : State) (nbits w : Nat) : State :=
  if nbits ≤ 8 then placeHalf (BitVec.ofNat 8 w) s
  else if nbits ≤ 16 then placeMain (BitVec.ofNat 16 w) s
  else placeDisplay (BitVec.ofNat 16 w) (BitVec.ofNat 16 (w / 2 ^ 16)) (BitVec.ofNat 16 (w / 2 ^ 32)) s

end Sys2Proof.Machine
end

