-- ==== Sys2Proof/Safety.lean ====
section
/-! DEFINITION. The terms that statements use: the invariants of spec 10_state.md R41, what a completed
instruction leaves of the run state (40 R127, R128), and what a store leaves of memory (20 R52). -/

namespace Sys2Proof.Machine

/-! ## Invariants -/

/-- An address the memory has (R3, R41 (a)). -/
def inRange (p : Params) (a : Word) : Prop := a.toNat < 2 ^ p.addrBits

/-- R41 (a), (c) and the widths of R21 and R26: every address register is in range, SCALE is 1, 2
or 3, BLOCK and FRAMECNT fit. (R41 (b) holds by the type of X and Y.) -/
structure registersInRange (s : State) : Prop where
  pc : inRange s.params s.main.pc
  ea : inRange s.params s.main.ea
  mainBp : inRange s.params s.main.bpAddr
  dpc : inRange s.params s.disp.dpc
  dentry : inRange s.params s.disp.dentry
  dispBp : inRange s.params s.disp.bpAddr
  dstack : ∀ a ∈ s.disp.dstack, inRange s.params a
  block : s.disp.block.toNat < 2 ^ (s.params.addrBits - s.params.dblockBits)
  scale : 1 ≤ s.disp.scale ∧ s.disp.scale ≤ 3
  frameCnt : s.disp.frameCnt ≤ s.params.frameCycles

/-- R41 (d): a present slot of either cache is the decoding of the memory word at its address. -/
structure cachesCoherent (s : State) : Prop where
  main : ∀ a i, lookup a s.mcache = some i → i = decodeMainWord (readWord s.mem a)
  display : ∀ a i, lookup a s.dcache = some i →
    i = decodeDisplayWord s.params.dblockBits (readWord s.mem a)

/-- Memory is stored word by word (R50, R52): of a word both bytes are listed, or neither. -/
def wholeWords (m : List Host.Cell) : Prop :=
  ∀ a, (lookup (2 * a) m).isSome = (lookup (2 * a + 1) m).isSome

/-- The tables are in their canonical form: keys rise, memory lists words whole, and every key belongs
to an address the memory has. -/
structure tablesCanonical (s : State) : Prop where
  mem : memoryWf s.mem = true
  memWhole : wholeWords s.mem
  memRange : ∀ e ∈ s.mem, e.1 < 2 * 2 ^ s.params.addrBits
  mcache : rising s.mcache = true
  mcacheRange : ∀ e ∈ s.mcache, e.1 < 2 ^ s.params.addrBits
  dcache : rising s.dcache = true
  dcacheRange : ∀ e ∈ s.dcache, e.1 < 2 ^ s.params.addrBits
  usage : rising s.usage = true
  usageRange : ∀ e ∈ s.usage, e.1 < 2 ^ s.params.addrBits

/-- An instruction that the Fetch transition does not perform: the fourteen orders (R90, R121). -/
def isOrder (i : Instr) : Prop := ∃ r, mainRecord i = some r ∧ r.isOperateOrIot = false

/-- An indirect order (R90). -/
def isIndirect (i : Instr) : Prop := ∃ r, mainRecord i = some r ∧ r.indirect = true

/-- R129 and R121: a processor that is not Running is between instructions; between the transitions
of one instruction IR holds an order, an indirect one in Defer. -/
structure transitionsConsistent (s : State) : Prop where
  notRunning : s.main.mstate ≠ .running → s.main.fsm = .fetch
  order : s.main.fsm ≠ .fetch → isOrder s.main.ir
  defer : s.main.fsm = .defer → isIndirect s.main.ir

/-! ## Completion -/

/-- The run state and recorded address that R127 and R128 leave: each access hits its breakpoint in
turn, and the Execution test at the new PC comes last, unless the processor is Halted. -/
def stopAfter (s : State) (before : ProcState × Word) (accesses : List Breakpoint) (next : Word) :
    ProcState × Word :=
  let touched := accesses.foldl
    (fun acc b => if b ∈ s.inputs.breakpoints then (ProcState.breakpointHalt, b.addr) else acc) before
  if touched.1 ≠ .halted ∧ (⟨.execution, s.mask next⟩ : Breakpoint) ∈ s.inputs.breakpoints then
    (.breakpointHalt, s.mask next)
  else touched

/-- The Main registers when an instruction that made `accesses` completes at `next` (R127): PC,
MSTATE and MBPADDR are written, FSM is Fetch, every other register is as before. -/
def completedMain (s : State) (accesses : List Breakpoint) (next : Word) : MainRegs :=
  let stop := stopAfter s (s.main.mstate, s.main.bpAddr) accesses next
  { s.main with pc := s.mask next, fsm := .fetch, mstate := stop.1, bpAddr := stop.2 }

/-- The address of an order's operand (R123, R124): EA latched by Defer, or the page address. -/
def operandAddress (s : State) (ind : Bool) (d : BitVec 11) : Word :=
  if ind then s.main.ea else pageAddress s d

/-- The Main registers an order leaves in its Execute transition (R123, R127, R128): its effect `f`
on the registers, EA, and the completion at `next` after its `accesses` at EA, in turn. -/
def orderDone (ind : Bool) (d : BitVec 11) (f : MainRegs → MainRegs) (accesses : List BreakKind)
    (next : Word) (s : State) : MainRegs :=
  completedMain (s.onMain fun m => f { m with ea := operandAddress s ind d })
    (accesses.map fun k => ⟨k, operandAddress s ind d⟩) next

/-- The state an order that stores nothing leaves in its Execute transition. -/
def orderNext (ind : Bool) (d : BitVec 11) (f : MainRegs → MainRegs) (accesses : List BreakKind)
    (next : Word) (s : State) : State :=
  { s with main := orderDone ind d f accesses next s }

/-- The state an operate-class instruction or an IOT `i` leaves in its Fetch transition (R121,
R127): its effect `f` on the Main registers, IR, and the completion at `next`. -/
def operateDone (i : Instr) (f : MainRegs → MainRegs) (next : Word) (s : State) : State :=
  { s with main := completedMain (s.onMain fun m => f { m with ir := i }) [] next }

/-- The Display Processor after the display-on flag (R195): Halted becomes Running. -/
def displayOn (on : Bool) (d : DispRegs) : DispRegs :=
  if on = true ∧ d.dstate = .halted then { d with dstate := .running } else d

/-- The truth of the class 3 condition of each bit (R201). -/
def skipCondition (s : State) : Nat → Bool
  | 0 => decide (s.main.ac.toNat = 0)
  | 1 => decide (s.main.ac.toNat < 2 ^ 15)
  | 2 => !s.main.l
  | 3 => decide (s.disp.dstate = .running)
  | 4 => s.inputs.ready.kbd
  | 5 => s.inputs.ready.ttyIn
  | 6 => s.inputs.ready.ttyOut
  | 7 => s.disp.frameLatch
  | 8 => s.inputs.ready.ptr
  | _ => false

/-- The state a display instruction leaves when it goes on at `dnext`, or, with the return bit, at
the popped address (R252, R253): an empty stack is logged and `dnext` stands. -/
def displayDone (ret : Bool) (dnext : Word) (s : State) : State :=
  match ret, s.disp.dstack with
  | true, top :: rest => { s with disp := { s.disp with dpc := s.mask top, dstack := rest } }
  | true, [] =>
    { s with disp := { s.disp with dpc := s.mask dnext }, log := s.log ++ [.displayStackUnderflow] }
  | false, _ => { s with disp := { s.disp with dpc := s.mask dnext } }

/-- The state after a half that does not escape (R306): the other half is next, or the next word is
captured. -/
def halfDone (s : State) : State :=
  if s.disp.half = .first then { s with disp := { s.disp with half := .second } }
  else
    let a := s.mask (s.disp.dpc + 1)
    { s with
      disp := { s.disp with dpc := a, immWord := memRead s a, half := .first }
      usage := insertAt a.toNat .increment s.usage }

/-- One event, if a bit is set. -/
def eventIf (set : Bool) (e : SinkEvent) : List SinkEvent := if set then [e] else []

/-- What one store leaves (R52): the word reads as `v`, every byte of every other word as before,
and of the two caches and the tags just the slot of that address is empty. -/
structure storedWord (s t : State) (addr v : Word) : Prop where
  word : memRead t addr = v
  others : ∀ k, k ≠ 2 * (s.mask addr).toNat → k ≠ 2 * (s.mask addr).toNat + 1 →
    readByte t.mem k = readByte s.mem k
  mcache : ∀ a, lookup a t.mcache = if a = (s.mask addr).toNat then none else lookup a s.mcache
  dcache : ∀ a, lookup a t.dcache = if a = (s.mask addr).toNat then none else lookup a s.dcache
  usage : ∀ a, lookup a t.usage = if a = (s.mask addr).toNat then none else lookup a s.usage

/-- Nothing but the Main Processor, memory and the slots of the caches differs. -/
def onlyMainAndMemory (s t : State) : Prop :=
  t = { s with main := t.main, mem := t.mem, mcache := t.mcache, dcache := t.dcache,
               usage := t.usage }

/-- The machine has no cache (R66): both caches emptied. -/
def withoutCaches (s : State) : State := { s with mcache := [], dcache := [] }

/-- An outcome seen without the caches. -/
def forgetCaches (r : Result) : Result :=
  match r with
  | .next t => .next (withoutCaches t)
  | .fault f => .fault f
  | .refused f => .refused f

/-- An outcome seen without the spelling that IR holds of an instruction (R105). -/
def forgetIr (r : Result) : Result :=
  match r with
  | .next t => .next (t.onMain fun m => { m with ir := .nop })
  | .fault f => .fault f
  | .refused f => .refused f

/-! ## Safe outcomes -/

/-- A step that goes on: neither a fatal error nor a refusal. -/
def goesOn (r : Result) : Prop := ∃ t, r = .next t

end Sys2Proof.Machine
end

