-- ==== Sys2Proof/Certificates/Slice0/Obligations.lean ====
section
/-! DEFINITION. The statements about the model. The number in a docstring is a rule of spec/. -/

section Obligations

open Sys2Proof Sys2Proof.Machine

/-! ## Encoding -/

/-- R80 to R100, R105: for every DBLOCK_BITS `k`, each decoder gives back every well-formed instruction
from its own bytes, with every operand value, and leaves the bytes after it. -/
def Obligations.DecodeOfEncode : Prop :=
  ∀ (k : Nat) (i : Instr) (rest : List Byte), i.wf k = true →
    decode k i.decoder (encode i ++ rest) = .ok (i, rest)

/-- R103: each decoder answers for every word, or half, with one well-formed instruction of its own,
for every DBLOCK_BITS `k`. -/
def Obligations.EveryWordDecodes : Prop :=
  ∀ k : Nat,
    (∀ w : Word, (decodeMainWord w).wf k = true ∧ (decodeMainWord w).decoder = .main)
    ∧ (∀ w : Word, (decodeDisplayWord k w).wf k = true ∧ (decodeDisplayWord k w).decoder = .display)
    ∧ ∀ h : Byte, (decodeHalf h).wf k = true ∧ (decodeHalf h).decoder = .half

/-- R89, R99: exactly which words have no decoding; a half always has one. -/
def Obligations.UnassignedWords : Prop :=
  (∀ w : Word, isUnassigned (decodeMainWord w) = true ↔
      (0x8200 ≤ w ∧ w ≤ 0x83FF) ∨ (0x8600 ≤ w ∧ w ≤ 0x87FF) ∨ (0x1800 ≤ w ∧ w ≤ 0x1FFF)
        ∨ (0x9800 ≤ w ∧ w ≤ 0x9FFF) ∨ (0x4000 ≤ w ∧ w ≤ 0x47FF) ∨ (0xC000 ≤ w ∧ w ≤ 0xC7FF))
    ∧ (∀ (k : Nat) (w : Word), isUnassigned (decodeDisplayWord k w) = true ↔
        w &&& 0x7000 = 0x7000 ∧ w &&& 0x0FF8 ≠ 0x0FC8)
    ∧ ∀ h : Byte, isUnassigned (decodeHalf h) = false

/-- R90: the decoded record of every Main word, field by field; only an IOT's record has `dev` and `iop`. -/
def Obligations.MainRecordOfWord : Prop :=
  ∀ w : Word,
    (w &&& 0x7E00 = 0 →
      mainRecord (decodeMainWord w) =
        some { opcode := .opr, data := (w.extractLsb' 0 6).zeroExtend 11,
               halt := decide (w.getLsbD 15 = false), isOperateOrIot := true })
    ∧ (w &&& 0xFE00 = 0x0600 → ∀ e ∈ [(0, MainOpcode.ral), (1, .rar), (2, .sal), (3, .sar)],
        w.extractLsb' 4 2 = BitVec.ofNat 2 e.1 →
        mainRecord (decodeMainWord w) =
          some { opcode := e.2, data := (w.extractLsb' 0 2).zeroExtend 11,
                 displayOn := w.getLsbD 6, isOperateOrIot := true })
    ∧ (w &&& 0x7E00 = 0x0400 →
        mainRecord (decodeMainWord w) =
          some { opcode := .skp, data := (w.extractLsb' 0 9).zeroExtend 11,
                 skipNegate := w.getLsbD 15, isOperateOrIot := true })
    ∧ (w &&& 0xFE00 = 0x0200 →
        mainRecord (decodeMainWord w) =
          some { opcode := .iot, data := (w.extractLsb' 0 9).zeroExtend 11, isOperateOrIot := true,
                 dev := some (w.extractLsb' 3 6), iop := some (w.extractLsb' 0 3) })
    ∧ (w &&& 0xF800 = 0x0800 →
        mainRecord (decodeMainWord w) = some { opcode := .law, data := w.extractLsb' 0 11 })
    ∧ (w &&& 0xF800 = 0x8800 →
        mainRecord (decodeMainWord w) = some { opcode := .lwc, data := w.extractLsb' 0 11 })
    ∧ (∀ e ∈ [(0x2, MainOpcode.jmp), (0x4, .dac), (0x5, .xam), (0x6, .isz), (0x7, .jms), (0x9, .and),
              (0xA, .ior), (0xB, .xor), (0xC, .lac), (0xD, .add), (0xE, .sub), (0xF, .sam)],
        w.extractLsb' 11 4 = BitVec.ofNat 4 e.1 →
        mainRecord (decodeMainWord w) =
          some { opcode := e.2, data := w.extractLsb' 0 11, indirect := w.getLsbD 15 })
    ∧ (isUnassigned (decodeMainWord w) = true → mainRecord (decodeMainWord w) = none)

/-- R92, R97, R98: for every DBLOCK_BITS `k`, the opcode tag and data field of every Display word; a
branch's data is the low `k` bits of the word, and a word without a decoding has no record. (A `k`
above the twelve data bits is not well formed, notes/assumptions 16: the twelve are then the data.) -/
def Obligations.DisplayRecordOfWord : Prop :=
  ∀ (k : Nat) (w : Word),
    (w.extractLsb' 12 3 = 0#3 →
      displayRecord (decodeDisplayWord k w) = some ⟨.dopr, w.extractLsb' 0 12⟩)
    ∧ (w.extractLsb' 12 3 = 1#3 →
        displayRecord (decodeDisplayWord k w) = some ⟨.dlxa, (w.extractLsb' 0 10).zeroExtend 12⟩)
    ∧ (w.extractLsb' 12 3 = 2#3 →
        displayRecord (decodeDisplayWord k w) = some ⟨.dlya, (w.extractLsb' 0 10).zeroExtend 12⟩)
    ∧ (w.extractLsb' 12 3 = 3#3 →
        displayRecord (decodeDisplayWord k w) = some ⟨.deim, (w.extractLsb' 0 8).zeroExtend 12⟩)
    ∧ (w.extractLsb' 12 3 = 4#3 →
        displayRecord (decodeDisplayWord k w) = some ⟨.dlvh, w.extractLsb' 0 12⟩)
    ∧ (∀ e ∈ [(5, DisplayOpcode.djms), (6, .djmp)],
        w.extractLsb' 12 3 = BitVec.ofNat 3 e.1 →
        displayRecord (decodeDisplayWord k w) =
          some ⟨e.2, BitVec.ofNat 12 (w.toNat % 2 ^ 12 % 2 ^ k)⟩)
    ∧ (w &&& 0x7FF8 = 0x7FC8 →
        displayRecord (decodeDisplayWord k w) = some ⟨.sgr1, (w.extractLsb' 0 3).zeroExtend 12⟩)
    ∧ (w &&& 0x7000 = 0x7000 → w &&& 0x0FF8 ≠ 0x0FC8 →
        displayRecord (decodeDisplayWord k w) = none)

/-- A sanity check of each family: words of the spec's own vectors (95 section 2) decode to the
instructions they are listed for, with the default DBLOCK_BITS. -/
def Obligations.SampleWordsDecode : Prop :=
  decode 11 .main [0x80, 0x05] = .ok (.coa, [])
    ∧ decode 11 .main [0x06, 0x41] = .ok (.ral true 1, [])
    ∧ decode 11 .main [0x84, 0x08] = .ok (.dsn, [])
    ∧ decode 11 .main [0x02, 0x03] = .ok (.dla, [])
    ∧ decode 11 .main [0x88, 0x03] = .ok (.lwc 3, [])
    ∧ decode 11 .main [0xE0, 0x0A] = .ok (.lac true 0x00A, [])
    ∧ decode 11 .display [0x0A, 0x10] =
      .ok (.dopr true false true false false false false true 0 0, [])
    ∧ decode 11 .display [0x30, 0xDB] = .ok (.deim 0xDB, [])
    ∧ decode 11 .display [0x7F, 0xCD] = .ok (.sgr1 true false true, [])
    ∧ decode 11 .half [0xEA] = .ok (.incVec true true 1 false 2, [])
    ∧ decode 11 .half [0x60] = .ok (.incCtl true true false false false false, [])

/-! ## Memory-reference orders -/

/-- R151, R152: the immediate loads. -/
def Obligations.ImmediateLoads : Prop :=
  ∀ (n : BitVec 11) (s : State),
    decodeMainWord (0x0800 ||| n.zeroExtend 16) = .law n
      ∧ decodeMainWord (0x8800 ||| n.zeroExtend 16) = .lwc n
      ∧ (s.main.fsm = .fetch →
          exec (.law n) s = .next { s with main := { s.main with ir := .law n, fsm := .execute } }
          ∧ exec (.lwc n) s = .next { s with main := { s.main with ir := .lwc n, fsm := .execute } })
      ∧ (s.main.fsm = .execute →
          exec (.law n) s = .next
            (orderNext false n (fun m => { m with ac := BitVec.ofNat 16 n.toNat })
              [] (s.main.pc + 1) s)
          ∧ exec (.lwc n) s = .next
            (orderNext false n (fun m => { m with ac := BitVec.ofNat 16 (2 ^ 16 - n.toNat) })
              [] (s.main.pc + 1) s))

/-- R153, R164: JMP goes on at EA and tests no Read or Write breakpoint; SAM skips exactly when AC
equals the word at EA. Neither changes AC, L or memory. -/
def Obligations.JumpAndSkipIfEqual : Prop :=
  ∀ (ind : Bool) (d : BitVec 11) (s : State),
    let equal := s.main.ac.toNat = (memRead s (operandAddress s ind d)).toNat
    decodeMainWord ((if ind then 0x9000 else 0x1000) ||| d.zeroExtend 16) = .jmp ind d
      ∧ decodeMainWord ((if ind then 0xF800 else 0x7800) ||| d.zeroExtend 16) = .sam ind d
      ∧ (s.main.fsm = .execute →
          exec (.jmp ind d) s = .next (orderNext ind d id [] (operandAddress s ind d) s)
          ∧ exec (.sam ind d) s =
              .next (orderNext ind d id [.read] (s.main.pc + (if equal then 2 else 1)) s))

/-- R154, R155: DAC stores AC at EA; XAM exchanges AC and the word at EA in one step. -/
def Obligations.DepositAndExchange : Prop :=
  ∀ (ind : Bool) (d : BitVec 11) (s : State),
    decodeMainWord ((if ind then 0xA000 else 0x2000) ||| d.zeroExtend 16) = .dac ind d
      ∧ decodeMainWord ((if ind then 0xA800 else 0x2800) ||| d.zeroExtend 16) = .xam ind d
      ∧ (s.main.fsm = .execute →
          (∃ t, exec (.dac ind d) s = .next t
            ∧ t.main = orderDone ind d id [.write] (s.main.pc + 1) s
            ∧ storedWord s t (operandAddress s ind d) s.main.ac
            ∧ onlyMainAndMemory s t)
          ∧ ∃ t, exec (.xam ind d) s = .next t
            ∧ t.main = orderDone ind d
                (fun m => { m with ac := memRead s (operandAddress s ind d) })
                [.read, .write] (s.main.pc + 1) s
            ∧ storedWord s t (operandAddress s ind d) s.main.ac
            ∧ onlyMainAndMemory s t)

/-- R156: ISZ stores the word plus 1 and skips when it wrapped to 0; AC and L stay. -/
def Obligations.IncrementSkipsOnZero : Prop :=
  ∀ (ind : Bool) (d : BitVec 11) (s : State),
    decodeMainWord ((if ind then 0xB000 else 0x3000) ||| d.zeroExtend 16) = .isz ind d
      ∧ (s.main.fsm = .execute →
          ∃ t, exec (.isz ind d) s = .next t
            ∧ t.main = orderDone ind d id [.read, .write]
                (s.main.pc + (if memRead s (operandAddress s ind d) = 0xFFFF then 2 else 1)) s
            ∧ storedWord s t (operandAddress s ind d)
                (BitVec.ofNat 16 ((memRead s (operandAddress s ind d)).toNat + 1))
            ∧ onlyMainAndMemory s t)

/-- R157: JMS stores the return address at EA and goes on at EA + 1. -/
def Obligations.SubroutineJumpSavesReturn : Prop :=
  ∀ (ind : Bool) (d : BitVec 11) (s : State),
    decodeMainWord ((if ind then 0xB800 else 0x3800) ||| d.zeroExtend 16) = .jms ind d
      ∧ (s.main.fsm = .execute →
          ∃ t, exec (.jms ind d) s = .next t
            ∧ t.main = orderDone ind d id [.write] (operandAddress s ind d + 1) s
            ∧ storedWord s t (operandAddress s ind d) (s.mask (s.main.pc + 1))
            ∧ onlyMainAndMemory s t)

/-- R158 to R161: AND, IOR, XOR and LAC leave their value in AC; L and memory stay. -/
def Obligations.LogicOrdersWriteAccumulator : Prop :=
  ∀ (ind : Bool) (d : BitVec 11) (s : State),
    let m := memRead s (operandAddress s ind d)
    let done (v : Word) : State :=
      orderNext ind d (fun r => { r with ac := v }) [.read] (s.main.pc + 1) s
    decodeMainWord ((if ind then 0xC800 else 0x4800) ||| d.zeroExtend 16) = .and ind d
      ∧ decodeMainWord ((if ind then 0xD000 else 0x5000) ||| d.zeroExtend 16) = .ior ind d
      ∧ decodeMainWord ((if ind then 0xD800 else 0x5800) ||| d.zeroExtend 16) = .xor ind d
      ∧ decodeMainWord ((if ind then 0xE000 else 0x6000) ||| d.zeroExtend 16) = .lac ind d
      ∧ (s.main.fsm = .execute →
          exec (.and ind d) s = .next (done (s.main.ac &&& m))
          ∧ exec (.ior ind d) s = .next (done (s.main.ac ||| m))
          ∧ exec (.xor ind d) s = .next (done (s.main.ac ^^^ m))
          ∧ exec (.lac ind d) s = .next (done m))

/-- R162, R163: ADD and SUB keep the low 16 bits of the sum and of the difference; the carry and the
borrow toggle L. -/
def Obligations.AddSubtractToggleLink : Prop :=
  ∀ (ind : Bool) (d : BitVec 11) (s : State),
    let a := s.main.ac.toNat
    let m := (memRead s (operandAddress s ind d)).toNat
    let done (v : Nat) (toggles : Bool) : State :=
      orderNext ind d
        (fun r => { r with ac := BitVec.ofNat 16 (v % 2 ^ 16), l := if toggles then !r.l else r.l })
        [.read] (s.main.pc + 1) s
    decodeMainWord ((if ind then 0xE800 else 0x6800) ||| d.zeroExtend 16) = .add ind d
      ∧ decodeMainWord ((if ind then 0xF000 else 0x7000) ||| d.zeroExtend 16) = .sub ind d
      ∧ (s.main.fsm = .execute →
          exec (.add ind d) s = .next (done (a + m) (decide (2 ^ 16 ≤ a + m)))
          ∧ exec (.sub ind d) s = .next (done (2 ^ 16 + a - m) (decide (a < m))))

/-- R121: the Fetch transition of every order latches it and goes to Defer exactly when it is
indirect. -/
def Obligations.FetchLatchesOrders : Prop :=
  ∀ (i : Instr) (r : MainRecord) (s : State),
    mainRecord i = some r → r.isOperateOrIot = false → s.main.fsm = .fetch →
    exec i s = .next
      { s with main := { s.main with
          ir := i, fsm := if r.indirect = true then .defer else .execute } }

/-- R122, R124, R125: Defer forms the pointer cell's address from the page of PC, increments the cell
first if its page offset is 8 to 15, and latches its content as EA. -/
def Obligations.DeferResolvesPointer : Prop :=
  ∀ (i : Instr) (r : MainRecord) (s : State),
    mainRecord i = some r → r.indirect = true → s.main.fsm = .defer →
    ∃ (p : Word) (t : State),
      p.toNat = (s.main.pc.toNat / 2 ^ 11 * 2 ^ 11 + r.data.toNat) % 2 ^ min s.params.addrBits 16
      ∧ exec i s = .next t
      ∧ t.main = { s.main with
          fsm := .execute
          ea := s.mask (if 8 ≤ p.toNat % 2 ^ 11 ∧ p.toNat % 2 ^ 11 ≤ 15 then memRead s p + 1
                        else memRead s p) }
      ∧ (if 8 ≤ p.toNat % 2 ^ 11 ∧ p.toNat % 2 ^ 11 ≤ 15 then
          storedWord s t p (memRead s p + 1) ∧ onlyMainAndMemory s t
        else t = { s with main := t.main })

/-! ## Operate classes -/

/-- R180: the three phases of class 1 and the halt, for every combination of bits. -/
def Obligations.OperatePhases : Prop :=
  ∀ (nh oda cml cll iac cma cla : Bool) (s : State),
    let a1 : Word := if cla then 0 else s.main.ac
    let a2 : Word := if cma then 0xFFFF - a1 else a1
    let wraps : Bool := iac && a2 == 0xFFFF
    let a3 : Word := if iac then (if wraps then 0 else a2 + 1) else a2
    let l : Bool := xor (xor (!cll && s.main.l) cml) wraps
    s.main.fsm = .fetch →
    exec (.opr nh oda cml cll iac cma cla) s = .next
      (operateDone (.opr nh oda cml cll iac cma cla)
        (fun m => { m with ac := if oda then a3 ||| m.ds else a3
                           l := l
                           mstate := if nh then m.mstate else .halted })
        (s.main.pc + 1) s)

/-- R182 to R187: HLT, NOP, CLA, CMA, STA, IAC, COA. (Of R181 it has HLT; that every class 1 word with
bit 15 clear halts is in OperatePhases.) -/
def Obligations.NamedOperatesHltToCoa : Prop :=
  (decodeMainWord 0x0000 = .hlt ∧ decodeMainWord 0x8000 = .nop ∧ decodeMainWord 0x8001 = .cla
      ∧ decodeMainWord 0x8002 = .cma ∧ decodeMainWord 0x8003 = .sta ∧ decodeMainWord 0x8004 = .iac
      ∧ decodeMainWord 0x8005 = .coa)
    ∧ ∀ s : State, s.main.fsm = .fetch →
        exec .hlt s = .next (operateDone .hlt (fun m => { m with mstate := .halted }) (s.main.pc + 1) s)
        ∧ exec .nop s = .next (operateDone .nop id (s.main.pc + 1) s)
        ∧ exec .cla s = .next (operateDone .cla (fun m => { m with ac := 0 }) (s.main.pc + 1) s)
        ∧ exec .cma s = .next
            (operateDone .cma (fun m => { m with ac := 0xFFFF - m.ac }) (s.main.pc + 1) s)
        ∧ exec .sta s = .next (operateDone .sta (fun m => { m with ac := 0xFFFF }) (s.main.pc + 1) s)
        ∧ exec .iac s = .next
            (operateDone .iac
              (fun m => { m with ac := m.ac + 1, l := if m.ac = 0xFFFF then !m.l else m.l })
              (s.main.pc + 1) s)
        ∧ exec .coa s = .next (operateDone .coa (fun m => { m with ac := 1 }) (s.main.pc + 1) s)

/-- R188 to R194: CIA, CLL, CML, STL, ODA, LDA, CAL. -/
def Obligations.NamedOperatesCiaToCal : Prop :=
  (decodeMainWord 0x8006 = .cia ∧ decodeMainWord 0x8008 = .cll ∧ decodeMainWord 0x8010 = .cml
      ∧ decodeMainWord 0x8018 = .stl ∧ decodeMainWord 0x8020 = .oda ∧ decodeMainWord 0x8021 = .lda
      ∧ decodeMainWord 0x8009 = .cal)
    ∧ ∀ s : State, s.main.fsm = .fetch →
        exec .cia s = .next
            (operateDone .cia
              (fun m => { m with ac := 0 - m.ac, l := if m.ac = 0 then !m.l else m.l })
              (s.main.pc + 1) s)
        ∧ exec .cll s = .next (operateDone .cll (fun m => { m with l := false }) (s.main.pc + 1) s)
        ∧ exec .cml s = .next (operateDone .cml (fun m => { m with l := !m.l }) (s.main.pc + 1) s)
        ∧ exec .stl s = .next (operateDone .stl (fun m => { m with l := true }) (s.main.pc + 1) s)
        ∧ exec .oda s = .next
            (operateDone .oda (fun m => { m with ac := m.ac ||| m.ds }) (s.main.pc + 1) s)
        ∧ exec .lda s = .next (operateDone .lda (fun m => { m with ac := m.ds }) (s.main.pc + 1) s)
        ∧ exec .cal s = .next
            (operateDone .cal (fun m => { m with ac := 0, l := false }) (s.main.pc + 1) s)

/-- R196, R197, R200: RAL and RAR rotate the 17-bit ring of L and AC; the display-on flag takes a
Halted Display Processor to Running (R195); DON is the flag alone. -/
def Obligations.RotatesTurnSeventeenBitRing : Prop :=
  ((∀ n : BitVec 2, decodeMainWord (0x0600 + n.zeroExtend 16) = .ral false n
      ∧ decodeMainWord (0x0610 + n.zeroExtend 16) = .rar false n)
    ∧ decodeMainWord 0x0640 = .don ∧ decodeMainWord 0x0641 = .ral true 1)
  ∧ ∀ (on : Bool) (n : BitVec 2) (s : State), s.main.fsm = .fetch →
    let ring : BitVec 17 := BitVec.ofBool s.main.l ++ s.main.ac
    let left := ring.rotateLeft n.toNat
    let right := ring.rotateRight n.toNat
    exec (.ral on n) s = .next
        (operateDone (.ral on n)
          (fun m => { m with ac := left.extractLsb' 0 16, l := left.getLsbD 16 })
          (s.main.pc + 1) { s with disp := displayOn on s.disp })
      ∧ exec (.rar on n) s = .next
        (operateDone (.rar on n)
          (fun m => { m with ac := right.extractLsb' 0 16, l := right.getLsbD 16 })
          (s.main.pc + 1) { s with disp := displayOn on s.disp })
      ∧ exec .don s = .next
        (operateDone .don id (s.main.pc + 1) { s with disp := displayOn true s.disp })

/-- R198, R199: SAL keeps the sign and shifts the 15 bits below it; SAR is the arithmetic shift right;
neither touches L. -/
def Obligations.ShiftsKeepSignAndLink : Prop :=
  (∀ n : BitVec 2, decodeMainWord (0x0620 + n.zeroExtend 16) = .sal false n
      ∧ decodeMainWord (0x0630 + n.zeroExtend 16) = .sar false n)
  ∧ ∀ (on : Bool) (n : BitVec 2) (s : State), s.main.fsm = .fetch →
    exec (.sal on n) s = .next
        (operateDone (.sal on n)
          (fun m => { m with
            ac := BitVec.ofNat 16 (m.ac.toNat / 2 ^ 15 * 2 ^ 15
                    + m.ac.toNat % 2 ^ 15 * 2 ^ n.toNat % 2 ^ 15) })
          (s.main.pc + 1) { s with disp := displayOn on s.disp })
      ∧ exec (.sar on n) s = .next
        (operateDone (.sar on n)
          (fun m => { m with ac := BitVec.ofInt 16 (m.ac.toInt / 2 ^ n.toNat) })
          (s.main.pc + 1) { s with disp := displayOn on s.disp })

/-- R201, R220: of the set condition bits only the highest decides; none set is false; the negate flag
inverts; the skip is one word; nothing but PC changes. -/
def Obligations.HighestConditionDecidesSkip : Prop :=
  (decodeMainWord 0x0400 = .skp false 0 ∧ decodeMainWord 0x8400 = .skp true 0)
  ∧ ∀ (neg : Bool) (cond : BitVec 9) (s : State), s.main.fsm = .fetch →
    ∃ r : Bool,
      (cond = 0 → r = false)
      ∧ (∀ k, cond.getLsbD k = true → (∀ j, k < j → cond.getLsbD j = false) →
          r = skipCondition s k)
      ∧ exec (.skp neg cond) s = .next
          (operateDone (.skp neg cond) id (s.main.pc + (if (r != neg) = true then 2 else 1)) s)

/-- R202 to R210: the named skips on AC, L and the running display, and KSF. -/
def Obligations.NamedSkipsAszToKsf : Prop :=
  (decodeMainWord 0x0401 = .asz ∧ decodeMainWord 0x8401 = .asn ∧ decodeMainWord 0x0402 = .asp
      ∧ decodeMainWord 0x8402 = .asm ∧ decodeMainWord 0x0404 = .lsz ∧ decodeMainWord 0x8404 = .lsn
      ∧ decodeMainWord 0x0408 = .dsf ∧ decodeMainWord 0x8408 = .dsn ∧ decodeMainWord 0x0410 = .ksf)
    ∧ ∀ s : State, s.main.fsm = .fetch →
        let skip (c : Bool) : Word := s.main.pc + (if c then 2 else 1)
        exec .asz s = .next (operateDone .asz id (skip (decide (s.main.ac = 0))) s)
        ∧ exec .asn s = .next (operateDone .asn id (skip (decide (s.main.ac ≠ 0))) s)
        ∧ exec .asp s = .next (operateDone .asp id (skip (decide (0 ≤ s.main.ac.toInt))) s)
        ∧ exec .asm s = .next (operateDone .asm id (skip (decide (s.main.ac.toInt < 0))) s)
        ∧ exec .lsz s = .next (operateDone .lsz id (skip (decide (s.main.l = false))) s)
        ∧ exec .lsn s = .next (operateDone .lsn id (skip (decide (s.main.l = true))) s)
        ∧ exec .dsf s = .next (operateDone .dsf id (skip (decide (s.disp.dstate = .running))) s)
        ∧ exec .dsn s = .next (operateDone .dsn id (skip (decide (s.disp.dstate ≠ .running))) s)
        ∧ exec .ksf s = .next (operateDone .ksf id (skip s.inputs.ready.kbd) s)

/-- R211 to R219: the named skips on the readiness inputs and the frame-sync latch. -/
def Obligations.NamedSkipsKsnToHsn : Prop :=
  (decodeMainWord 0x8410 = .ksn ∧ decodeMainWord 0x0420 = .rsf ∧ decodeMainWord 0x8420 = .rsn
      ∧ decodeMainWord 0x0440 = .tsf ∧ decodeMainWord 0x8440 = .tsn ∧ decodeMainWord 0x0480 = .ssf
      ∧ decodeMainWord 0x8480 = .ssn ∧ decodeMainWord 0x0500 = .hsf ∧ decodeMainWord 0x8500 = .hsn)
    ∧ ∀ s : State, s.main.fsm = .fetch →
        let skip (c : Bool) : Word := s.main.pc + (if c then 2 else 1)
        exec .ksn s = .next (operateDone .ksn id (skip (!s.inputs.ready.kbd)) s)
        ∧ exec .rsf s = .next (operateDone .rsf id (skip s.inputs.ready.ttyIn) s)
        ∧ exec .rsn s = .next (operateDone .rsn id (skip (!s.inputs.ready.ttyIn)) s)
        ∧ exec .tsf s = .next (operateDone .tsf id (skip s.inputs.ready.ttyOut) s)
        ∧ exec .tsn s = .next (operateDone .tsn id (skip (!s.inputs.ready.ttyOut)) s)
        ∧ exec .ssf s = .next (operateDone .ssf id (skip s.disp.frameLatch) s)
        ∧ exec .ssn s = .next (operateDone .ssn id (skip (!s.disp.frameLatch)) s)
        ∧ exec .hsf s = .next (operateDone .hsf id (skip s.inputs.ready.ptr) s)
        ∧ exec .hsn s = .next (operateDone .hsn id (skip (!s.inputs.ready.ptr)) s)

/-! ## IOT -/

/-- R230, R232, R233: an ignored code does nothing but advance PC, whoever owns it; a code that no
device owns is logged and does nothing else. -/
def Obligations.IgnoredAndUnownedIot : Prop :=
  ∀ (code : IotCode) (s : State), s.main.fsm = .fetch →
    (s.params.ignoredIotCode = some code →
      exec (.iot code) s = .next (operateDone (.iot code) id (s.main.pc + 1) s))
    ∧ (s.params.ignoredIotCode ≠ some code → owner s.params.registry code = none →
        exec (.iot code) s = .next
          (operateDone (.iot code) id (s.main.pc + 1)
            { s with log := s.log ++ [.unregisteredIot code] }))

/-- R231, R236: an external device may replace AC, change the readiness inputs and its own state, and
nothing else. The three values are free (notes/assumptions 5): the statement names none. -/
def Obligations.ExternalIotFrame : Prop :=
  ∀ (code : IotCode) (id' : Nat) (s : State), s.main.fsm = .fetch →
    s.params.ignoredIotCode ≠ some code → owner s.params.registry code = some (.external id') →
    ∃ (ac : Word) (ready : Readiness) (devices : Nat),
      exec (.iot code) s = .next
        (operateDone (.iot code) (fun m => { m with ac := ac }) (s.main.pc + 1)
          { s with inputs := { s.inputs with ready := ready }, devices := devices })

/-- R237 to R240: the four codes of the Display Processor, when it owns them and none is the ignored
code. -/
def Obligations.DisplayIotCodes : Prop :=
  (decodeMainWord 0x0203 = .dla ∧ decodeMainWord 0x020A = .dof ∧ decodeMainWord 0x0239 = .scf
      ∧ decodeMainWord 0x02C4 = .drs)
    ∧ ∀ s : State, s.main.fsm = .fetch →
        (∀ c ∈ displayCodes, s.params.ignoredIotCode ≠ some c
          ∧ owner s.params.registry c = some .display) →
        let a := s.mask s.main.ac
        exec .dla s = .next
            (operateDone .dla id (s.main.pc + 1)
              { s with disp := { s.disp with
                  dpc := a, dentry := a
                  block := BitVec.ofNat 16 (a.toNat / 2 ^ s.params.dblockBits) } })
        ∧ exec .dof s = .next
            (operateDone .dof id (s.main.pc + 1)
              { s with disp := { s.disp with dstate := .halted } })
        ∧ exec .scf s = .next
            (operateDone .scf id (s.main.pc + 1)
              { s with disp := { s.disp with frameLatch := false } })
        ∧ exec .drs s = .next
            (operateDone .drs id (s.main.pc + 1) { s with disp := displayOn true s.disp })

/-- R241, R322: a code outside the four that the registry routes to the Display Processor is a fatal
error; a well-formed registry routes none. -/
def Obligations.MisroutedIotIsFatal : Prop :=
  (∀ (code : IotCode) (s : State), s.main.fsm = .fetch →
      s.params.ignoredIotCode ≠ some code → owner s.params.registry code = some .display →
      code ∉ displayCodes → exec (.iot code) s = .fault (.unimplementedDisplayIot code))
    ∧ ∀ (r : Registry) (code : IotCode), r.wf = true →
        (owner r code = some .display ↔ code ∈ displayCodes)

/-- R234, R235, R323: registration succeeds exactly when no code is claimed twice, and then each code
belongs to the device that claims it and to no other; else it stops at a code already owned. -/
def Obligations.RegistrationGivesOneOwner : Prop :=
  ∀ devices : List (Device × List IotCode),
    ((devices.flatMap Prod.snd).Nodup →
      ∃ r, registerDevices devices [] = .ok r
        ∧ ∀ d code, owner r code = some d ↔ ∃ e ∈ devices, e.1 = d ∧ code ∈ e.2)
    ∧ (¬ (devices.flatMap Prod.snd).Nodup →
        ∃ code, registerDevices devices [] = .error (.iotRegistryConflict code)
          ∧ 2 ≤ (devices.flatMap Prod.snd).count code)

/-! ## Fatal errors -/

/-- R320, R321: the unassigned rows raise UnimplementedInstruction with the word and the address. -/
def Obligations.UnassignedRowsAreFatal : Prop :=
  ∀ (w : Word) (s : State),
    exec (.unassignedIot w) s = .fault (.unimplementedInstruction w s.main.pc)
      ∧ exec (.unassignedShift w) s = .fault (.unimplementedInstruction w s.main.pc)
      ∧ exec (.unassignedOrder3 w) s = .fault (.unimplementedInstruction w s.main.pc)
      ∧ exec (.unassignedOrder8 w) s = .fault (.unimplementedInstruction w s.main.pc)
      ∧ exec (.unassignedDisplay w) s = .fault (.unimplementedInstruction w s.disp.dpc)

/-- R6, R320 to R322, R327: with a well-formed configuration a step ends in a fatal error exactly when
a Running processor fetches a word without a decoding, and the payload is that word and its address. -/
def Obligations.FatalErrorsAreUndecodableFetches : Prop :=
  ∀ (s : State) (f : Fault), s.params.wf = true → cachesCoherent s → transitionsConsistent s →
    (mainStep s = .fault f ↔
      s.main.mstate = .running ∧ s.main.fsm = .fetch
        ∧ isUnassigned (decodeMainWord (memRead s s.main.pc)) = true
        ∧ f = .unimplementedInstruction (memRead s s.main.pc) s.main.pc)
    ∧ (dispStep s = .fault f ↔
        s.disp.dstate = .running ∧ s.disp.dmode = .processor
          ∧ isUnassigned (decodeDisplayWord s.params.dblockBits (memRead s s.disp.dpc)) = true
          ∧ f = .unimplementedInstruction (memRead s s.disp.dpc) s.disp.dpc)

/-! ## Display Processor, Processor mode -/

/-- R252 to R254, R264 to R268: DOPR with every combination of bits: final position, events in order,
return, scale, block, halt. -/
def Obligations.DisplayOperateMicroOperations : Prop :=
  ∀ (nh sync ixm iym dxm dym rjm dsp : Bool) (f c : BitVec 2) (s : State),
    let k := s.params.dacMsbStep
    let x1 := if ixm then s.disp.x + k else s.disp.x
    let y1 := if iym then s.disp.y + k else s.disp.y
    let x2 := if dxm then x1 - k else x1
    let y2 := if dym then y1 - k else y1
    exec (.dopr nh sync ixm iym dxm dym rjm dsp f c) s = .next
      (displayDone rjm (s.disp.dpc + 1)
        { s with
          disp := { s.disp with
            dstate := if nh then s.disp.dstate else .halted
            x := x2
            y := y2
            scale := if f = 1 then (if c = 0 then 1 else c.toNat) else s.disp.scale
            block :=
              if f = 2 then
                BitVec.ofNat 16 (c.toNat % 2 ^ (s.params.addrBits - s.params.dblockBits))
              else s.disp.block }
          sink := s.sink ++ eventIf sync (.moveAbsolute s.disp.x s.disp.y .off)
            ++ eventIf ixm (.moveAbsolute x1 s.disp.y .off)
            ++ eventIf iym (.moveAbsolute x1 y1 .off)
            ++ eventIf dxm (.moveAbsolute x2 y1 .off)
            ++ eventIf dym (.moveAbsolute x2 y2 .off)
            ++ eventIf dsp (.drawPoint x2 y2) })

/-- R255 to R263, R265, R266, R268: the named words of DOPR: one micro-operation each, set scale, set
block, and the light-pen stub. -/
def Obligations.NamedDisplayOperates : Prop :=
  (∀ k : Nat,
      (decodeDisplayWord k 0x0000 = .dhlt ∧ decodeDisplayWord k 0x0800 = .dnop
        ∧ decodeDisplayWord k 0x0C00 = .dhvc ∧ decodeDisplayWord k 0x0A00 = .dixm
        ∧ decodeDisplayWord k 0x0900 = .diym ∧ decodeDisplayWord k 0x0880 = .ddxm
        ∧ decodeDisplayWord k 0x0840 = .ddym ∧ decodeDisplayWord k 0x0820 = .drjm
        ∧ decodeDisplayWord k 0x0810 = .ddsp)
      ∧ ∀ c : BitVec 2, decodeDisplayWord k (0x0804 + c.zeroExtend 16) = .dsts c
          ∧ decodeDisplayWord k (0x0808 + c.zeroExtend 16) = .dstb c
          ∧ decodeDisplayWord k (0x080C + c.zeroExtend 16) = .dlpn c)
    ∧ ∀ (s : State) (c : BitVec 2),
        let k := s.params.dacMsbStep
        let on (ret : Bool) (t : State) : Result := .next (displayDone ret (s.disp.dpc + 1) t)
        let moved (x y : Dac) : State :=
          { s with disp := { s.disp with x := x, y := y }
                   sink := s.sink ++ [.moveAbsolute x y .off] }
        exec .dhlt s = on false { s with disp := { s.disp with dstate := .halted } }
        ∧ exec .dnop s = on false s
        ∧ exec .dhvc s = on false (moved s.disp.x s.disp.y)
        ∧ exec .dixm s = on false (moved (s.disp.x + k) s.disp.y)
        ∧ exec .diym s = on false (moved s.disp.x (s.disp.y + k))
        ∧ exec .ddxm s = on false (moved (s.disp.x - k) s.disp.y)
        ∧ exec .ddym s = on false (moved s.disp.x (s.disp.y - k))
        ∧ exec .drjm s = on true s
        ∧ exec .ddsp s = on false { s with sink := s.sink ++ [.drawPoint s.disp.x s.disp.y] }
        ∧ exec (.dsts c) s = on false
            { s with disp := { s.disp with scale := if c = 0 then 1 else c.toNat } }
        ∧ exec (.dstb c) s = on false
            { s with disp := { s.disp with
                block :=
                  BitVec.ofNat 16 (c.toNat % 2 ^ (s.params.addrBits - s.params.dblockBits)) } }
        ∧ exec (.dlpn c) s = on false s

/-- R269, R270: load X and load Y: the operand doubled, one move in the style of the SGR flags, and the
return of SGR_RET. -/
def Obligations.PositionLoads : Prop :=
  ∀ (v : BitVec 10) (s : State),
    let style : Style := if s.disp.sgrEnter = true ∧ s.disp.sgrBeam = true then .extended else .off
    let p : Dac := BitVec.ofNat 11 (2 * v.toNat)
    decodeDisplayWord s.params.dblockBits (0x1000 ||| v.zeroExtend 16) = .dlxa v
      ∧ decodeDisplayWord s.params.dblockBits (0x2000 ||| v.zeroExtend 16) = .dlya v
      ∧ exec (.dlxa v) s = .next
          (displayDone s.disp.sgrRet (s.disp.dpc + 1)
            { s with disp := { s.disp with x := p }
                     sink := s.sink ++ [.moveAbsolute p s.disp.y style] })
      ∧ exec (.dlya v) s = .next
          (displayDone s.disp.sgrRet (s.disp.dpc + 1)
            { s with disp := { s.disp with y := p }
                     sink := s.sink ++ [.moveAbsolute s.disp.x p style] })

/-- R271, R275: DEIM captures its own low byte as the second half and leaves DPC; SGR1 writes its three
flags. -/
def Obligations.EnterIncrementAndSgr : Prop :=
  (∀ (b : BitVec 8) (s : State),
      decodeDisplayWord s.params.dblockBits (0x3000 ||| b.zeroExtend 16) = .deim b
      ∧ exec (.deim b) s = .next
          (displayDone false s.disp.dpc
            { s with disp := { s.disp with
                dmode := .increment, immWord := BitVec.ofNat 16 b.toNat, half := .second } }))
    ∧ ∀ (f : BitVec 3) (s : State),
        decodeDisplayWord s.params.dblockBits (0x7FC8 ||| f.zeroExtend 16) =
            .sgr1 (f.getLsbD 2) (f.getLsbD 1) (f.getLsbD 0)
        ∧ exec (.sgr1 (f.getLsbD 2) (f.getLsbD 1) (f.getLsbD 0)) s = .next
            (displayDone false (s.disp.dpc + 1)
              { s with disp := { s.disp with
                  sgrEnter := f.getLsbD 0, sgrRet := f.getLsbD 1, sgrBeam := f.getLsbD 2 } })

/-- R96, R272: the long vector, its magnitudes, scale, signs, style and length. -/
def Obligations.LongVectorMoves : Prop :=
  ∀ (hint : BitVec 12) (s : State),
    let w1 := memRead s (s.disp.dpc + 1)
    let w2 := memRead s (s.disp.dpc + 2)
    let m := w1.toNat % 2 ^ s.params.lvMagBits
    let n := w2.toNat % 2 ^ s.params.lvMagBits
    let dx : Int := (if w2.getLsbD 12 then n else m) * s.disp.scale * 2
    let dy : Int := (if w2.getLsbD 12 then m else n) * s.disp.scale * 2
    let x : Dac := BitVec.ofInt 11 (s.disp.x.toNat + (if w2.getLsbD 14 then -dx else dx))
    let y : Dac := BitVec.ofInt 11 (s.disp.y.toNat + (if w2.getLsbD 13 then -dy else dy))
    let style : Style :=
      if w1.getLsbD 13 = false then .off else if w1.getLsbD 14 then .dotted else .normal
    exec (.dlvh hint) s = .next
      (displayDone false (s.disp.dpc + 3)
        { s with disp := { s.disp with x := x, y := y }
                 sink := s.sink ++ [.moveAbsolute x y style] })

/-- From R97, R273, R274 and R277: a branch word decodes to its operand,
the low DBLOCK_BITS bits of the data field, and the branch goes to the target from BLOCK and that
operand; DJMS pushes the return address. The model's choices (notes/assumptions 16): a DBLOCK_BITS
above 12, which is not well formed, leaves the twelve data bits; of a wider operand the same bits
count. -/
def Obligations.DisplayBranches : Prop :=
  ∀ (a : BitVec 12) (s : State), s.params.addrBits ≤ 16 →
    let k := 2 ^ s.params.dblockBits
    let target : Word :=
      BitVec.ofNat 16 ((s.disp.block.toNat * k + a.toNat % k) % 2 ^ s.params.addrBits)
    let low : BitVec 12 := BitVec.ofNat 12 (a.toNat % k)
    decodeDisplayWord s.params.dblockBits (0x5000 ||| a.zeroExtend 16) = .djms low
      ∧ decodeDisplayWord s.params.dblockBits (0x6000 ||| a.zeroExtend 16) = .djmp low
      ∧ ∀ operand ∈ [low, a],
          exec (.djmp operand) s = .next { s with disp := { s.disp with dpc := target } }
          ∧ exec (.djms operand) s = .next
              { s with disp := { s.disp with
                  dpc := target, dstack := s.mask (s.disp.dpc + 1) :: s.disp.dstack } }

/-! ## Display Processor, Increment mode -/

/-- R100, R302, R306: the fields of every vector half; and the scaled relative move, one event, and the
next half. -/
def Obligations.VectorHalfMoves : Prop :=
  (∀ h : Byte, h.getLsbD 7 = true →
    decodeHalf h =
      .incVec (h.getLsbD 6) (h.getLsbD 5) (h.extractLsb' 3 2) (h.getLsbD 2) (h.extractLsb' 0 2))
  ∧ ∀ (beam xneg : Bool) (xmag : BitVec 2) (yneg : Bool) (ymag : BitVec 2) (s : State),
    let dx : Int := xmag.toNat * s.disp.scale * 2
    let dy : Int := ymag.toNat * s.disp.scale * 2
    let x : Dac := BitVec.ofInt 11 (s.disp.x.toNat + (if xneg then -dx else dx))
    let y : Dac := BitVec.ofInt 11 (s.disp.y.toNat + (if yneg then -dy else dy))
    exec (.incVec beam xneg xmag yneg ymag) s = .next
      (halfDone
        { s with disp := { s.disp with x := x, y := y }
                 sink := s.sink ++ [.moveAbsolute x y (if beam then .normal else .off)] })

/-- R100, R303 to R306: the flags of every control half, bit 0 being ignored; and what the half does: the
DAC operations in order, at most one event, then the escape
with its return, or, without escape, the next half and no return. -/
def Obligations.ControlHalfActs : Prop :=
  (∀ h : Byte, h.getLsbD 7 = false →
    decodeHalf h =
      .incCtl (h.getLsbD 6) (h.getLsbD 5) (h.getLsbD 4) (h.getLsbD 3) (h.getLsbD 2) (h.getLsbD 1))
  ∧ ∀ (esc rjm ixm zxl iym zyl : Bool) (s : State),
    let step (on : Bool) (v : Dac) : Dac := if on then v + s.params.dacMsbStep else v
    let clear (on : Bool) (v : Dac) : Dac := if on then v &&& ~~~s.params.dacLsbMask else v
    let x := clear zxl (step ixm s.disp.x)
    let y := clear zyl (step iym s.disp.y)
    let moved : State :=
      { s with disp := { s.disp with x := x, y := y }
               sink := s.sink ++ eventIf (ixm || zxl || iym || zyl) (.moveAbsolute x y .off) }
    exec (.incCtl esc rjm ixm zxl iym zyl) s = .next
      (if esc then
        displayDone rjm (s.disp.dpc + 1) { moved with disp := { moved.disp with dmode := .processor } }
      else halfDone moved)

/-! ## Steps -/

/-- R120, R121, R130, R64: a `MainStep` of a Running processor in Fetch runs the instruction that the
bytes at PC decode to, in the state with the switches polled and the decoding cached; in Defer and
Execute it runs the latched instruction (R17). -/
def Obligations.MainStepRunsDecodedInstruction : Prop :=
  ∀ (s : State) (rest : List HostRequest) (i : Instr),
    s.agenda = .mainStep :: rest → s.main.mstate = .running → cachesCoherent s →
    let polled : MainRegs :=
      { s.main with ds := if s.inputs.mapping then s.inputs.switches else s.main.ds }
    let a := (s.mask s.main.pc).toNat
    (s.main.fsm = .fetch →
      decode s.params.dblockBits .main [readByte s.mem (2 * a), readByte s.mem (2 * a + 1)] = .ok (i, []) →
      isUnassigned i = false →
      ∃ mc, (∀ b, lookup b mc = if b = a then some i else lookup b s.mcache)
        ∧ step s = exec i { s with agenda := rest, main := polled, mcache := mc })
    ∧ (s.main.fsm ≠ .fetch → s.main.ir = i →
        step s = exec i { s with agenda := rest, main := polled })

/-- R250 to R252, R276, R300, R301: a `DispStep` of a Running Display Processor counts the frame, runs
the instruction that the bytes at DPC (or the next half) decode to, and then tests the Display
breakpoint. -/
def Obligations.DispStepRunsDecodedInstruction : Prop :=
  ∀ (s : State) (rest : List HostRequest) (i : Instr),
    s.agenda = .dispStep :: rest → s.disp.dstate = .running → cachesCoherent s →
    let ticked := frameTick { s with agenda := rest }
    let a := (s.mask s.disp.dpc).toNat
    let tested (r : Result) : Result :=
      match r with
      | .next t =>
        .next
          (if t.disp.dstate = .running ∧ (t.disp.dmode = .processor ∨ t.disp.half = .first)
              ∧ (⟨.display, t.disp.dpc⟩ : Breakpoint) ∈ t.inputs.breakpoints then
            { t with disp := { t.disp with dstate := .breakpointHalt, bpAddr := t.disp.dpc } }
          else t)
      | stop => stop
    (s.disp.dmode = .processor →
      decode s.params.dblockBits .display [readByte s.mem (2 * a), readByte s.mem (2 * a + 1)] = .ok (i, []) →
      isUnassigned i = false →
      ∃ dc us, (∀ b, lookup b dc = if b = a then some i else lookup b s.dcache)
        ∧ (∀ b, lookup b us = if b = a then some .processor else lookup b s.usage)
        ∧ step s = tested (exec i { ticked with dcache := dc, usage := us }))
    ∧ (s.disp.dmode = .increment →
        decode s.params.dblockBits .half [if s.disp.half = .first then s.disp.immWord.extractLsb' 8 8
                      else s.disp.immWord.extractLsb' 0 8] = .ok (i, []) →
        step s = tested (exec i ticked))

/-- R129, R250, R251: while a processor is not Running its step changes nothing, but for the frame
counter, the latch and the event of a crossing. -/
def Obligations.StoppedProcessorsOnlyCountFrames : Prop :=
  ∀ s : State,
    (s.main.mstate ≠ .running → mainStep s = .next s)
    ∧ (s.disp.dstate ≠ .running →
        dispStep s = .next
          (if s.params.frameCycles < s.disp.frameCnt + 1 then
            { s with disp := { s.disp with frameCnt := 0, frameLatch := true }
                     sink := s.sink ++ [.frameDone] }
          else { s with disp := { s.disp with frameCnt := s.disp.frameCnt + 1 } }))

/-- R251, R334: every `DispStep` that goes on, in every state and whatever it runs, leaves FRAMECNT and
FRAMELATCH as the counter's rule alone says, and a crossing's event comes first. -/
def Obligations.FrameCounterIsIndependent : Prop :=
  ∀ s t : State, cachesCoherent s → dispStep s = .next t →
    let crosses := s.params.frameCycles < s.disp.frameCnt + 1
    t.disp.frameCnt = (if crosses then 0 else s.disp.frameCnt + 1)
    ∧ t.disp.frameLatch = (if crosses then true else s.disp.frameLatch)
    ∧ ∃ events, t.sink = s.sink ++ (if crosses then [.frameDone] else []) ++ events
        ∧ .frameDone ∉ events

/-- R251, R380: from a cleared counter a stopped Display Processor counts FRAME_CYCLES steps without an
event, and the step after them is the crossing. -/
def Obligations.FramePeriodOfStoppedDisplay : Prop :=
  ∀ (s : State) (rest : List HostRequest), s.disp.dstate ≠ .running → s.disp.frameCnt = 0 →
    (∀ n ≤ s.params.frameCycles, s.agenda = List.replicate n .dispStep ++ rest →
      Sys2Proof.core.run n s = .next
        { s with agenda := rest, disp := { s.disp with frameCnt := n } })
    ∧ (s.agenda = List.replicate (s.params.frameCycles + 1) .dispStep ++ rest →
        Sys2Proof.core.run (s.params.frameCycles + 1) s = .next
          { s with agenda := rest, disp := { s.disp with frameLatch := true }
                   sink := s.sink ++ [.frameDone] })

/-- R131: an operate-class or IOT instruction completes in one step, a direct order in two, an indirect
one in three; the state between is the next transition's. -/
def Obligations.StepsPerInstruction : Prop :=
  ∀ (s : State) (r : MainRecord),
    s.main.mstate = .running → s.main.fsm = .fetch → cachesCoherent s → s.params.wf = true →
    mainRecord (decodeMainWord (memRead s s.main.pc)) = some r →
    ∃ s1, mainStep s = .next s1
      ∧ (if r.isOperateOrIot = true then s1.main.fsm = .fetch
        else ∃ s2, mainStep s1 = .next s2
          ∧ (if r.indirect = true then
              s1.main.fsm = .defer ∧ s2.main.fsm = .execute
                ∧ ∃ s3, mainStep s2 = .next s3 ∧ s3.main.fsm = .fetch
            else s1.main.fsm = .execute ∧ s2.main.fsm = .fetch))

/-- R360, R362, R364, R365: a reset in any state gives every register its value, empties the caches,
emits one event, and leaves memory, the configuration and the inputs. IR and EA have no reset value
(R17, R18): the statement gives them none. -/
def Obligations.ResetRequest : Prop :=
  ∀ (s : State) (rest : List HostRequest), s.agenda = .reset :: rest →
    ∃ (ir : Instr) (ea : Word), step s = .next
      { s with
        agenda := rest
        main :=
          { pc := s.mask s.params.bootAddress, ac := 0, l := false, ds := 0
            mstate := s.params.mainResetState, fsm := .fetch, ir := ir, ea := ea
            bpAddr := 0 }
        disp :=
          { dpc := 0, block := 0, x := 0, y := 0, scale := 1, sgrEnter := false, sgrBeam := false
            sgrRet := false, dstack := [], frameCnt := 0, frameLatch := false, dstate := .halted
            dmode := .processor, immWord := 0, half := .first, dentry := 0, bpAddr := 0 }
        mcache := []
        dcache := []
        usage := []
        sink := s.sink ++ [.moveAbsolute 0 0 .off] }

/-- The state after reset holds the values of R361 to R363, and every byte of its memory is the free
power-on content (R364; the form is the model's, notes/assumptions 9). That its configuration
is well formed is the model's choice of ADDR_BITS (notes/assumptions 1). -/
def Obligations.ResetStateValues : Prop :=
  let s := State.reset
  (s.main.pc = s.params.bootAddress ∧ s.main.ac = 0 ∧ s.main.l = false ∧ s.main.ds = 0
      ∧ s.main.fsm = .fetch ∧ s.main.mstate = s.params.mainResetState ∧ s.main.bpAddr = 0)
    ∧ (s.disp.dpc = 0 ∧ s.disp.block = 0 ∧ s.disp.x = 0 ∧ s.disp.y = 0 ∧ s.disp.scale = 1
      ∧ s.disp.sgrEnter = false ∧ s.disp.sgrBeam = false ∧ s.disp.sgrRet = false
      ∧ s.disp.dstack = [] ∧ s.disp.frameCnt = 0 ∧ s.disp.frameLatch = false
      ∧ s.disp.dstate = .halted ∧ s.disp.dmode = .processor ∧ s.disp.immWord = 0
      ∧ s.disp.half = .first ∧ s.disp.dentry = 0 ∧ s.disp.bpAddr = 0)
    ∧ s.mcache = [] ∧ s.dcache = [] ∧ s.sink = [.moveAbsolute 0 0 .off]
    ∧ (∀ k, readByte s.mem k = Config.powerOnByte k)
    ∧ s.params.wf = true

/-- R52, R132, R276, R374: what the host's store, its resumes, every deposit of a register and every
change of an input do. R132 gives a resume from Halted and BreakpointHalt only: that one of a Running
Main Processor changes nothing is the model's choice (DESIGN CHOICE, notes/assumptions 10), as is how a
deposited word stands for BLOCK, X, Y, SCALE and the SGR flags (the same entry); that L and the latch,
one bit wide, take its bit 0 is DEDUCED there. That the devices' behaviour changes through their private
state is the model's choice (notes/assumptions 5). -/
def Obligations.HostRequestsBetweenSteps : Prop :=
  ∀ (s : State) (rest : List HostRequest),
    (∀ a v, s.agenda = .store a v :: rest →
      ∃ t, step s = .next t ∧ storedWord s t a v
        ∧ onlyMainAndMemory { s with agenda := rest } t ∧ t.main = s.main)
    ∧ (s.agenda = .resumeMain :: rest →
        step s = .next { s with agenda := rest, main := { s.main with mstate := .running } })
    ∧ (s.agenda = .resumeDisplay :: rest → s.disp.dstate = .breakpointHalt →
        step s = .next { s with agenda := rest, disp := { s.disp with dstate := .running } })
    ∧ (∀ v, s.agenda = .depositMain .pc v :: rest → s.main.mstate ≠ .running →
        step s = .next { s with agenda := rest, main := { s.main with pc := s.mask v } })
    ∧ (∀ v, s.agenda = .depositMain .ac v :: rest → s.main.mstate ≠ .running →
        step s = .next { s with agenda := rest, main := { s.main with ac := v } })
    ∧ (∀ v, s.agenda = .depositMain .link v :: rest → s.main.mstate ≠ .running →
        step s = .next { s with agenda := rest, main := { s.main with l := v.getLsbD 0 } })
    ∧ (∀ v, s.agenda = .depositMain .ds v :: rest → s.main.mstate ≠ .running →
        step s = .next { s with agenda := rest, main := { s.main with ds := v } })
    ∧ (∀ v, s.agenda = .depositDisplay .dpc v :: rest → s.disp.dstate ≠ .running →
        step s = .next { s with agenda := rest, disp := { s.disp with dpc := s.mask v } })
    ∧ (∀ v, s.agenda = .depositDisplay .block v :: rest → s.disp.dstate ≠ .running →
        step s = .next
          { s with agenda := rest
                   disp := { s.disp with
                    block := BitVec.ofNat 16
                      (v.toNat % 2 ^ (s.params.addrBits - s.params.dblockBits)) } })
    ∧ (∀ v, s.agenda = .depositDisplay .x v :: rest → s.disp.dstate ≠ .running →
        step s = .next
          { s with agenda := rest, disp := { s.disp with x := BitVec.ofNat 11 v.toNat } })
    ∧ (∀ v, s.agenda = .depositDisplay .y v :: rest → s.disp.dstate ≠ .running →
        step s = .next
          { s with agenda := rest, disp := { s.disp with y := BitVec.ofNat 11 v.toNat } })
    ∧ (∀ v, s.agenda = .depositDisplay .scale v :: rest → s.disp.dstate ≠ .running →
        step s = .next
          { s with agenda := rest
                   disp := { s.disp with
                    scale := if v.toNat % 4 = 0 then 1 else v.toNat % 4 } })
    ∧ (∀ v, s.agenda = .depositDisplay .sgr v :: rest → s.disp.dstate ≠ .running →
        step s = .next
          { s with agenda := rest
                   disp := { s.disp with
                    sgrEnter := v.getLsbD 0, sgrRet := v.getLsbD 1, sgrBeam := v.getLsbD 2 } })
    ∧ (∀ addrs, s.agenda = .depositStack addrs :: rest → s.disp.dstate ≠ .running →
        step s = .next
          { s with agenda := rest, disp := { s.disp with dstack := addrs.map s.mask } })
    ∧ (∀ n, s.agenda = .depositFrameCount n :: rest → s.disp.dstate ≠ .running →
        n ≤ s.params.frameCycles →
        step s = .next { s with agenda := rest, disp := { s.disp with frameCnt := n } })
    ∧ (∀ v, s.agenda = .depositDisplay .frameLatch v :: rest → s.disp.dstate ≠ .running →
        step s = .next
          { s with agenda := rest, disp := { s.disp with frameLatch := v.getLsbD 0 } })
    ∧ (∀ n, s.agenda = .setDevices n :: rest →
        step s = .next { s with agenda := rest, devices := n })
    ∧ (∀ p, s.agenda = .setBreakpoints p :: rest →
        step s = .next
          { s with agenda := rest, inputs := { s.inputs with breakpoints := p } })
    ∧ (∀ r, s.agenda = .setReadiness r :: rest →
        step s = .next { s with agenda := rest, inputs := { s.inputs with ready := r } })
    ∧ (∀ m v, s.agenda = .setSwitches m v :: rest →
        step s = .next
          { s with agenda := rest, inputs := { s.inputs with mapping := m, switches := v } })

/-! ## Whole-machine rules -/

/-- R58, R333, R336: no `DispStep` writes memory or touches the Main Processor, its cache, the inputs
or the configuration. -/
def Obligations.DisplayStepsLeaveMainAndMemory : Prop :=
  ∀ s t : State, cachesCoherent s → dispStep s = .next t →
    t = { s with disp := t.disp, dcache := t.dcache, usage := t.usage, sink := t.sink, log := t.log }

/-- 43 section 4: of the Display Processor a `MainStep` can change only DPC, BLOCK and DENTRY, DSTATE
and FRAMELATCH, and it draws nothing. -/
def Obligations.MainStepsLeaveDrawingState : Prop :=
  ∀ s t : State, cachesCoherent s → transitionsConsistent s → mainStep s = .next t →
    t.disp = { s.disp with dpc := t.disp.dpc, block := t.disp.block, dentry := t.disp.dentry,
                           dstate := t.disp.dstate, frameLatch := t.disp.frameLatch }
    ∧ t.sink = s.sink ∧ t.params = s.params ∧ t.inputs.breakpoints = s.inputs.breakpoints
    ∧ t.inputs.switches = s.inputs.switches ∧ t.inputs.mapping = s.inputs.mapping

/-- R27, R239, R374: only a reset, a `MainStep` that runs IOT 0x039, or the host's own deposit of a
cleared latch into a stopped Display Processor clears the frame-sync latch. (R27 names the first two;
that the latch is among the registers the host may deposit is DEDUCED, notes/assumptions 10.) -/
def Obligations.OnlyScfResetOrDepositClearsLatch : Prop :=
  ∀ s t : State, cachesCoherent s → step s = .next t →
    s.disp.frameLatch = true → t.disp.frameLatch = false →
    (nextRequest s).1 = .reset
    ∨ ((nextRequest s).1 = .mainStep ∧ s.main.mstate = .running
        ∧ (nextMainInstr (pollSwitches (nextRequest s).2)).1.expand = .iot 0x039)
    ∨ (s.disp.dstate ≠ .running
        ∧ ∃ v : Word, v.getLsbD 0 = false ∧ (nextRequest s).1 = .depositDisplay .frameLatch v)

/-- R35, R38, R40: no step changes the parameters or the registry, and the sink trace only grows at its
end. That the log is kept, as a trace that only grows at its end, is the model's choice, which R326
allows (DESIGN CHOICE, notes/assumptions 15). -/
def Obligations.ConfigurationFixedTracesGrow : Prop :=
  ∀ s t : State, step s = .next t →
    t.params = s.params ∧ (∃ events, t.sink = s.sink ++ events)
      ∧ ∃ entries, t.log = s.log ++ entries

/-- R105: a named combination does what its expansion does; only the spelling in IR differs. -/
def Obligations.NamesMeanTheirExpansion : Prop :=
  ∀ (i : Instr) (s : State), forgetIr (exec i s) = forgetIr (exec i.expand s)

/-- R65, R66, R370: after a store every fetch of either processor from that address decodes the new
word, cached or not, and every other fetch is as before. -/
def Obligations.StoreIsSeenByNextFetch : Prop :=
  ∀ (s : State) (a b v : Word),
    (fetchMainWord (memWrite s a v) b).1 =
        (if s.mask b = s.mask a then decodeMainWord v else (fetchMainWord s b).1)
      ∧ (fetchDisplayWord (memWrite s a v) b).1 =
        (if s.mask b = s.mask a then decodeDisplayWord s.params.dblockBits v
         else (fetchDisplayWord s b).1)

/-- R157, R122, R153: an indirect JMP through the word a JMS stored, from the page of that word, goes
on after the JMS, unless the word is an index cell. -/
def Obligations.SubroutineReturns : Prop :=
  ∀ (ind : Bool) (d e : BitVec 11) (s t u : State),
    s.main.fsm = .execute → exec (.jms ind d) s = .next t →
    u.mem = t.mem → u.params = t.params → u.main.fsm = .defer →
    pageAddress u e = u.mask (operandAddress s ind d) →
    isIndexCell (pageAddress u e) = false →
    ∃ v w, exec (.jmp true e) u = .next v ∧ exec (.jmp true e) v = .next w
      ∧ w.main.pc = s.mask (s.main.pc + 1)

/-! ## Invariants -/

/-- R41 (a), (c): every step keeps the registers in their ranges. -/
def Obligations.StepKeepsRegistersInRange : Prop :=
  ∀ s t : State, registersInRange s → step s = .next t → registersInRange t

/-- R41 (d): every step keeps both caches equal to the decoding of memory. -/
def Obligations.StepKeepsCachesCoherent : Prop :=
  ∀ s t : State, cachesCoherent s → step s = .next t → cachesCoherent t

/-- Every step keeps memory and the tables by address in their canonical form and range, and memory
listing words whole. -/
def Obligations.StepKeepsTablesCanonical : Prop :=
  ∀ s t : State, tablesCanonical s → step s = .next t → tablesCanonical t

/-- R121, R129: every step keeps FSM at Fetch while the Main Processor is not Running, and IR an order
between the transitions of one instruction. -/
def Obligations.StepKeepsTransitionsConsistent : Prop :=
  ∀ s t : State, cachesCoherent s → transitionsConsistent s → step s = .next t →
    transitionsConsistent t

/-- The invariants hold of the state after reset. -/
def Obligations.InvariantsHoldAtReset : Prop :=
  registersInRange State.reset ∧ cachesCoherent State.reset ∧ tablesCanonical State.reset
    ∧ transitionsConsistent State.reset

/-- R66: the caches cannot be observed: with both emptied a step has the same outcome, but for the
caches themselves. -/
def Obligations.CachesAreInvisible : Prop :=
  ∀ s : State, cachesCoherent s →
    forgetCaches (step (withoutCaches s)) = forgetCaches (step s)

end Obligations
end

