-- ==== Sys2Proof/Laws/State.lean ====
section
/-! SUPPORT. One lemma per field and update of the state, all by `rfl`, so that no proof unfolds a record
update, and the reduction of addresses, which only the parameters determine. -/

namespace Sys2Proof.Machine

/-! ### onMain -/

@[simp] theorem onMain_params (s : State) (f : MainRegs → MainRegs) : (s.onMain f).params = s.params := rfl
@[simp] theorem onMain_main (s : State) (f : MainRegs → MainRegs) : (s.onMain f).main = f s.main := rfl
@[simp] theorem onMain_disp (s : State) (f : MainRegs → MainRegs) : (s.onMain f).disp = s.disp := rfl
@[simp] theorem onMain_mem (s : State) (f : MainRegs → MainRegs) : (s.onMain f).mem = s.mem := rfl
@[simp] theorem onMain_mcache (s : State) (f : MainRegs → MainRegs) : (s.onMain f).mcache = s.mcache := rfl
@[simp] theorem onMain_dcache (s : State) (f : MainRegs → MainRegs) : (s.onMain f).dcache = s.dcache := rfl
@[simp] theorem onMain_usage (s : State) (f : MainRegs → MainRegs) : (s.onMain f).usage = s.usage := rfl
@[simp] theorem onMain_inputs (s : State) (f : MainRegs → MainRegs) : (s.onMain f).inputs = s.inputs := rfl
@[simp] theorem onMain_devices (s : State) (f : MainRegs → MainRegs) : (s.onMain f).devices = s.devices := rfl
@[simp] theorem onMain_sink (s : State) (f : MainRegs → MainRegs) : (s.onMain f).sink = s.sink := rfl
@[simp] theorem onMain_log (s : State) (f : MainRegs → MainRegs) : (s.onMain f).log = s.log := rfl
@[simp] theorem onMain_agenda (s : State) (f : MainRegs → MainRegs) : (s.onMain f).agenda = s.agenda := rfl
@[simp] theorem onMain_tick (s : State) (f : MainRegs → MainRegs) : (s.onMain f).tick = s.tick := rfl
@[simp] theorem onMain_mask (s : State) (f : MainRegs → MainRegs) (x : Word) : State.mask (s.onMain f) x = s.mask x := rfl

/-! ### onDisp -/

@[simp] theorem onDisp_params (s : State) (f : DispRegs → DispRegs) : (s.onDisp f).params = s.params := rfl
@[simp] theorem onDisp_main (s : State) (f : DispRegs → DispRegs) : (s.onDisp f).main = s.main := rfl
@[simp] theorem onDisp_disp (s : State) (f : DispRegs → DispRegs) : (s.onDisp f).disp = f s.disp := rfl
@[simp] theorem onDisp_mem (s : State) (f : DispRegs → DispRegs) : (s.onDisp f).mem = s.mem := rfl
@[simp] theorem onDisp_mcache (s : State) (f : DispRegs → DispRegs) : (s.onDisp f).mcache = s.mcache := rfl
@[simp] theorem onDisp_dcache (s : State) (f : DispRegs → DispRegs) : (s.onDisp f).dcache = s.dcache := rfl
@[simp] theorem onDisp_usage (s : State) (f : DispRegs → DispRegs) : (s.onDisp f).usage = s.usage := rfl
@[simp] theorem onDisp_inputs (s : State) (f : DispRegs → DispRegs) : (s.onDisp f).inputs = s.inputs := rfl
@[simp] theorem onDisp_devices (s : State) (f : DispRegs → DispRegs) : (s.onDisp f).devices = s.devices := rfl
@[simp] theorem onDisp_sink (s : State) (f : DispRegs → DispRegs) : (s.onDisp f).sink = s.sink := rfl
@[simp] theorem onDisp_log (s : State) (f : DispRegs → DispRegs) : (s.onDisp f).log = s.log := rfl
@[simp] theorem onDisp_agenda (s : State) (f : DispRegs → DispRegs) : (s.onDisp f).agenda = s.agenda := rfl
@[simp] theorem onDisp_tick (s : State) (f : DispRegs → DispRegs) : (s.onDisp f).tick = s.tick := rfl
@[simp] theorem onDisp_mask (s : State) (f : DispRegs → DispRegs) (x : Word) : State.mask (s.onDisp f) x = s.mask x := rfl

/-! ### emit -/

@[simp] theorem emit_params (s : State) (e : SinkEvent) : (emit e s).params = s.params := rfl
@[simp] theorem emit_main (s : State) (e : SinkEvent) : (emit e s).main = s.main := rfl
@[simp] theorem emit_disp (s : State) (e : SinkEvent) : (emit e s).disp = s.disp := rfl
@[simp] theorem emit_mem (s : State) (e : SinkEvent) : (emit e s).mem = s.mem := rfl
@[simp] theorem emit_mcache (s : State) (e : SinkEvent) : (emit e s).mcache = s.mcache := rfl
@[simp] theorem emit_dcache (s : State) (e : SinkEvent) : (emit e s).dcache = s.dcache := rfl
@[simp] theorem emit_usage (s : State) (e : SinkEvent) : (emit e s).usage = s.usage := rfl
@[simp] theorem emit_inputs (s : State) (e : SinkEvent) : (emit e s).inputs = s.inputs := rfl
@[simp] theorem emit_devices (s : State) (e : SinkEvent) : (emit e s).devices = s.devices := rfl
@[simp] theorem emit_sink (s : State) (e : SinkEvent) : (emit e s).sink = s.sink ++ [e] := rfl
@[simp] theorem emit_log (s : State) (e : SinkEvent) : (emit e s).log = s.log := rfl
@[simp] theorem emit_agenda (s : State) (e : SinkEvent) : (emit e s).agenda = s.agenda := rfl
@[simp] theorem emit_tick (s : State) (e : SinkEvent) : (emit e s).tick = s.tick := rfl
@[simp] theorem emit_mask (s : State) (e : SinkEvent) (x : Word) : State.mask (emit e s) x = s.mask x := rfl

/-! ### logEvent -/

@[simp] theorem logEvent_params (s : State) (e : LogEvent) : (logEvent e s).params = s.params := rfl
@[simp] theorem logEvent_main (s : State) (e : LogEvent) : (logEvent e s).main = s.main := rfl
@[simp] theorem logEvent_disp (s : State) (e : LogEvent) : (logEvent e s).disp = s.disp := rfl
@[simp] theorem logEvent_mem (s : State) (e : LogEvent) : (logEvent e s).mem = s.mem := rfl
@[simp] theorem logEvent_mcache (s : State) (e : LogEvent) : (logEvent e s).mcache = s.mcache := rfl
@[simp] theorem logEvent_dcache (s : State) (e : LogEvent) : (logEvent e s).dcache = s.dcache := rfl
@[simp] theorem logEvent_usage (s : State) (e : LogEvent) : (logEvent e s).usage = s.usage := rfl
@[simp] theorem logEvent_inputs (s : State) (e : LogEvent) : (logEvent e s).inputs = s.inputs := rfl
@[simp] theorem logEvent_devices (s : State) (e : LogEvent) : (logEvent e s).devices = s.devices := rfl
@[simp] theorem logEvent_sink (s : State) (e : LogEvent) : (logEvent e s).sink = s.sink := rfl
@[simp] theorem logEvent_log (s : State) (e : LogEvent) : (logEvent e s).log = s.log ++ [e] := rfl
@[simp] theorem logEvent_agenda (s : State) (e : LogEvent) : (logEvent e s).agenda = s.agenda := rfl
@[simp] theorem logEvent_tick (s : State) (e : LogEvent) : (logEvent e s).tick = s.tick := rfl
@[simp] theorem logEvent_mask (s : State) (e : LogEvent) (x : Word) : State.mask (logEvent e s) x = s.mask x := rfl

/-! ### memWrite -/

@[simp] theorem memWrite_params (s : State) (a v : Word) : (memWrite s a v).params = s.params := rfl
@[simp] theorem memWrite_main (s : State) (a v : Word) : (memWrite s a v).main = s.main := rfl
@[simp] theorem memWrite_disp (s : State) (a v : Word) : (memWrite s a v).disp = s.disp := rfl
@[simp] theorem memWrite_mem (s : State) (a v : Word) : (memWrite s a v).mem = writeWord s.mem (s.mask a).toNat v := rfl
@[simp] theorem memWrite_mcache (s : State) (a v : Word) : (memWrite s a v).mcache = eraseAt (s.mask a).toNat s.mcache := rfl
@[simp] theorem memWrite_dcache (s : State) (a v : Word) : (memWrite s a v).dcache = eraseAt (s.mask a).toNat s.dcache := rfl
@[simp] theorem memWrite_usage (s : State) (a v : Word) : (memWrite s a v).usage = eraseAt (s.mask a).toNat s.usage := rfl
@[simp] theorem memWrite_inputs (s : State) (a v : Word) : (memWrite s a v).inputs = s.inputs := rfl
@[simp] theorem memWrite_devices (s : State) (a v : Word) : (memWrite s a v).devices = s.devices := rfl
@[simp] theorem memWrite_sink (s : State) (a v : Word) : (memWrite s a v).sink = s.sink := rfl
@[simp] theorem memWrite_log (s : State) (a v : Word) : (memWrite s a v).log = s.log := rfl
@[simp] theorem memWrite_agenda (s : State) (a v : Word) : (memWrite s a v).agenda = s.agenda := rfl
@[simp] theorem memWrite_tick (s : State) (a v : Word) : (memWrite s a v).tick = s.tick := rfl
@[simp] theorem memWrite_mask (s : State) (a v : Word) (x : Word) : State.mask (memWrite s a v) x = s.mask x := rfl

/-! ### setAc -/

@[simp] theorem setAc_params (s : State) (v : Word) : (setAc v s).params = s.params := rfl
@[simp] theorem setAc_main (s : State) (v : Word) : (setAc v s).main = { s.main with ac := v } := rfl
@[simp] theorem setAc_disp (s : State) (v : Word) : (setAc v s).disp = s.disp := rfl
@[simp] theorem setAc_mem (s : State) (v : Word) : (setAc v s).mem = s.mem := rfl
@[simp] theorem setAc_mcache (s : State) (v : Word) : (setAc v s).mcache = s.mcache := rfl
@[simp] theorem setAc_dcache (s : State) (v : Word) : (setAc v s).dcache = s.dcache := rfl
@[simp] theorem setAc_usage (s : State) (v : Word) : (setAc v s).usage = s.usage := rfl
@[simp] theorem setAc_inputs (s : State) (v : Word) : (setAc v s).inputs = s.inputs := rfl
@[simp] theorem setAc_devices (s : State) (v : Word) : (setAc v s).devices = s.devices := rfl
@[simp] theorem setAc_sink (s : State) (v : Word) : (setAc v s).sink = s.sink := rfl
@[simp] theorem setAc_log (s : State) (v : Word) : (setAc v s).log = s.log := rfl
@[simp] theorem setAc_agenda (s : State) (v : Word) : (setAc v s).agenda = s.agenda := rfl
@[simp] theorem setAc_tick (s : State) (v : Word) : (setAc v s).tick = s.tick := rfl
@[simp] theorem setAc_mask (s : State) (v : Word) (x : Word) : State.mask (setAc v s) x = s.mask x := rfl

/-! ### setAccumulator -/

@[simp] theorem setAccumulator_params (s : State) (a : Accumulator) : (setAccumulator a s).params = s.params := rfl
@[simp] theorem setAccumulator_main (s : State) (a : Accumulator) : (setAccumulator a s).main = { s.main with ac := a.ac, l := a.l } := rfl
@[simp] theorem setAccumulator_disp (s : State) (a : Accumulator) : (setAccumulator a s).disp = s.disp := rfl
@[simp] theorem setAccumulator_mem (s : State) (a : Accumulator) : (setAccumulator a s).mem = s.mem := rfl
@[simp] theorem setAccumulator_mcache (s : State) (a : Accumulator) : (setAccumulator a s).mcache = s.mcache := rfl
@[simp] theorem setAccumulator_dcache (s : State) (a : Accumulator) : (setAccumulator a s).dcache = s.dcache := rfl
@[simp] theorem setAccumulator_usage (s : State) (a : Accumulator) : (setAccumulator a s).usage = s.usage := rfl
@[simp] theorem setAccumulator_inputs (s : State) (a : Accumulator) : (setAccumulator a s).inputs = s.inputs := rfl
@[simp] theorem setAccumulator_devices (s : State) (a : Accumulator) : (setAccumulator a s).devices = s.devices := rfl
@[simp] theorem setAccumulator_sink (s : State) (a : Accumulator) : (setAccumulator a s).sink = s.sink := rfl
@[simp] theorem setAccumulator_log (s : State) (a : Accumulator) : (setAccumulator a s).log = s.log := rfl
@[simp] theorem setAccumulator_agenda (s : State) (a : Accumulator) : (setAccumulator a s).agenda = s.agenda := rfl
@[simp] theorem setAccumulator_tick (s : State) (a : Accumulator) : (setAccumulator a s).tick = s.tick := rfl
@[simp] theorem setAccumulator_mask (s : State) (a : Accumulator) (x : Word) : State.mask (setAccumulator a s) x = s.mask x := rfl

/-! ### hitMainBreakpoint -/

@[simp] theorem hitMainBreakpoint_params (s : State) (a : Word) : (hitMainBreakpoint a s).params = s.params := rfl
@[simp] theorem hitMainBreakpoint_main (s : State) (a : Word) : (hitMainBreakpoint a s).main = { s.main with mstate := .breakpointHalt, bpAddr := a } := rfl
@[simp] theorem hitMainBreakpoint_disp (s : State) (a : Word) : (hitMainBreakpoint a s).disp = s.disp := rfl
@[simp] theorem hitMainBreakpoint_mem (s : State) (a : Word) : (hitMainBreakpoint a s).mem = s.mem := rfl
@[simp] theorem hitMainBreakpoint_mcache (s : State) (a : Word) : (hitMainBreakpoint a s).mcache = s.mcache := rfl
@[simp] theorem hitMainBreakpoint_dcache (s : State) (a : Word) : (hitMainBreakpoint a s).dcache = s.dcache := rfl
@[simp] theorem hitMainBreakpoint_usage (s : State) (a : Word) : (hitMainBreakpoint a s).usage = s.usage := rfl
@[simp] theorem hitMainBreakpoint_inputs (s : State) (a : Word) : (hitMainBreakpoint a s).inputs = s.inputs := rfl
@[simp] theorem hitMainBreakpoint_devices (s : State) (a : Word) : (hitMainBreakpoint a s).devices = s.devices := rfl
@[simp] theorem hitMainBreakpoint_sink (s : State) (a : Word) : (hitMainBreakpoint a s).sink = s.sink := rfl
@[simp] theorem hitMainBreakpoint_log (s : State) (a : Word) : (hitMainBreakpoint a s).log = s.log := rfl
@[simp] theorem hitMainBreakpoint_agenda (s : State) (a : Word) : (hitMainBreakpoint a s).agenda = s.agenda := rfl
@[simp] theorem hitMainBreakpoint_tick (s : State) (a : Word) : (hitMainBreakpoint a s).tick = s.tick := rfl
@[simp] theorem hitMainBreakpoint_mask (s : State) (a : Word) (x : Word) : State.mask (hitMainBreakpoint a s) x = s.mask x := rfl

/-! ### latch -/

@[simp] theorem latch_params (s : State) (i : Instr) (d : Fsm) : (latch i d s).params = s.params := rfl
@[simp] theorem latch_main (s : State) (i : Instr) (d : Fsm) : (latch i d s).main = { s.main with ir := i, fsm := d } := rfl
@[simp] theorem latch_disp (s : State) (i : Instr) (d : Fsm) : (latch i d s).disp = s.disp := rfl
@[simp] theorem latch_mem (s : State) (i : Instr) (d : Fsm) : (latch i d s).mem = s.mem := rfl
@[simp] theorem latch_mcache (s : State) (i : Instr) (d : Fsm) : (latch i d s).mcache = s.mcache := rfl
@[simp] theorem latch_dcache (s : State) (i : Instr) (d : Fsm) : (latch i d s).dcache = s.dcache := rfl
@[simp] theorem latch_usage (s : State) (i : Instr) (d : Fsm) : (latch i d s).usage = s.usage := rfl
@[simp] theorem latch_inputs (s : State) (i : Instr) (d : Fsm) : (latch i d s).inputs = s.inputs := rfl
@[simp] theorem latch_devices (s : State) (i : Instr) (d : Fsm) : (latch i d s).devices = s.devices := rfl
@[simp] theorem latch_sink (s : State) (i : Instr) (d : Fsm) : (latch i d s).sink = s.sink := rfl
@[simp] theorem latch_log (s : State) (i : Instr) (d : Fsm) : (latch i d s).log = s.log := rfl
@[simp] theorem latch_agenda (s : State) (i : Instr) (d : Fsm) : (latch i d s).agenda = s.agenda := rfl
@[simp] theorem latch_tick (s : State) (i : Instr) (d : Fsm) : (latch i d s).tick = s.tick := rfl
@[simp] theorem latch_mask (s : State) (i : Instr) (d : Fsm) (x : Word) : State.mask (latch i d s) x = s.mask x := rfl

/-! ### emitMove -/

@[simp] theorem emitMove_params (s : State) (y : Style) : (emitMove y s).params = s.params := rfl
@[simp] theorem emitMove_main (s : State) (y : Style) : (emitMove y s).main = s.main := rfl
@[simp] theorem emitMove_disp (s : State) (y : Style) : (emitMove y s).disp = s.disp := rfl
@[simp] theorem emitMove_mem (s : State) (y : Style) : (emitMove y s).mem = s.mem := rfl
@[simp] theorem emitMove_mcache (s : State) (y : Style) : (emitMove y s).mcache = s.mcache := rfl
@[simp] theorem emitMove_dcache (s : State) (y : Style) : (emitMove y s).dcache = s.dcache := rfl
@[simp] theorem emitMove_usage (s : State) (y : Style) : (emitMove y s).usage = s.usage := rfl
@[simp] theorem emitMove_inputs (s : State) (y : Style) : (emitMove y s).inputs = s.inputs := rfl
@[simp] theorem emitMove_devices (s : State) (y : Style) : (emitMove y s).devices = s.devices := rfl
@[simp] theorem emitMove_sink (s : State) (y : Style) : (emitMove y s).sink = s.sink ++ [.moveAbsolute s.disp.x s.disp.y y] := rfl
@[simp] theorem emitMove_log (s : State) (y : Style) : (emitMove y s).log = s.log := rfl
@[simp] theorem emitMove_agenda (s : State) (y : Style) : (emitMove y s).agenda = s.agenda := rfl
@[simp] theorem emitMove_tick (s : State) (y : Style) : (emitMove y s).tick = s.tick := rfl
@[simp] theorem emitMove_mask (s : State) (y : Style) (x : Word) : State.mask (emitMove y s) x = s.mask x := rfl

/-! ### setX -/

@[simp] theorem setX_params (s : State) (v : Dac) : (setX v s).params = s.params := rfl
@[simp] theorem setX_main (s : State) (v : Dac) : (setX v s).main = s.main := rfl
@[simp] theorem setX_disp (s : State) (v : Dac) : (setX v s).disp = { s.disp with x := v } := rfl
@[simp] theorem setX_mem (s : State) (v : Dac) : (setX v s).mem = s.mem := rfl
@[simp] theorem setX_mcache (s : State) (v : Dac) : (setX v s).mcache = s.mcache := rfl
@[simp] theorem setX_dcache (s : State) (v : Dac) : (setX v s).dcache = s.dcache := rfl
@[simp] theorem setX_usage (s : State) (v : Dac) : (setX v s).usage = s.usage := rfl
@[simp] theorem setX_inputs (s : State) (v : Dac) : (setX v s).inputs = s.inputs := rfl
@[simp] theorem setX_devices (s : State) (v : Dac) : (setX v s).devices = s.devices := rfl
@[simp] theorem setX_sink (s : State) (v : Dac) : (setX v s).sink = s.sink := rfl
@[simp] theorem setX_log (s : State) (v : Dac) : (setX v s).log = s.log := rfl
@[simp] theorem setX_agenda (s : State) (v : Dac) : (setX v s).agenda = s.agenda := rfl
@[simp] theorem setX_tick (s : State) (v : Dac) : (setX v s).tick = s.tick := rfl
@[simp] theorem setX_mask (s : State) (v : Dac) (x : Word) : State.mask (setX v s) x = s.mask x := rfl

/-! ### setY -/

@[simp] theorem setY_params (s : State) (v : Dac) : (setY v s).params = s.params := rfl
@[simp] theorem setY_main (s : State) (v : Dac) : (setY v s).main = s.main := rfl
@[simp] theorem setY_disp (s : State) (v : Dac) : (setY v s).disp = { s.disp with y := v } := rfl
@[simp] theorem setY_mem (s : State) (v : Dac) : (setY v s).mem = s.mem := rfl
@[simp] theorem setY_mcache (s : State) (v : Dac) : (setY v s).mcache = s.mcache := rfl
@[simp] theorem setY_dcache (s : State) (v : Dac) : (setY v s).dcache = s.dcache := rfl
@[simp] theorem setY_usage (s : State) (v : Dac) : (setY v s).usage = s.usage := rfl
@[simp] theorem setY_inputs (s : State) (v : Dac) : (setY v s).inputs = s.inputs := rfl
@[simp] theorem setY_devices (s : State) (v : Dac) : (setY v s).devices = s.devices := rfl
@[simp] theorem setY_sink (s : State) (v : Dac) : (setY v s).sink = s.sink := rfl
@[simp] theorem setY_log (s : State) (v : Dac) : (setY v s).log = s.log := rfl
@[simp] theorem setY_agenda (s : State) (v : Dac) : (setY v s).agenda = s.agenda := rfl
@[simp] theorem setY_tick (s : State) (v : Dac) : (setY v s).tick = s.tick := rfl
@[simp] theorem setY_mask (s : State) (v : Dac) (x : Word) : State.mask (setY v s) x = s.mask x := rfl

/-! ### haltDisplay -/

@[simp] theorem haltDisplay_params (s : State) : (haltDisplay s).params = s.params := rfl
@[simp] theorem haltDisplay_main (s : State) : (haltDisplay s).main = s.main := rfl
@[simp] theorem haltDisplay_disp (s : State) : (haltDisplay s).disp = { s.disp with dstate := .halted } := rfl
@[simp] theorem haltDisplay_mem (s : State) : (haltDisplay s).mem = s.mem := rfl
@[simp] theorem haltDisplay_mcache (s : State) : (haltDisplay s).mcache = s.mcache := rfl
@[simp] theorem haltDisplay_dcache (s : State) : (haltDisplay s).dcache = s.dcache := rfl
@[simp] theorem haltDisplay_usage (s : State) : (haltDisplay s).usage = s.usage := rfl
@[simp] theorem haltDisplay_inputs (s : State) : (haltDisplay s).inputs = s.inputs := rfl
@[simp] theorem haltDisplay_devices (s : State) : (haltDisplay s).devices = s.devices := rfl
@[simp] theorem haltDisplay_sink (s : State) : (haltDisplay s).sink = s.sink := rfl
@[simp] theorem haltDisplay_log (s : State) : (haltDisplay s).log = s.log := rfl
@[simp] theorem haltDisplay_agenda (s : State) : (haltDisplay s).agenda = s.agenda := rfl
@[simp] theorem haltDisplay_tick (s : State) : (haltDisplay s).tick = s.tick := rfl
@[simp] theorem haltDisplay_mask (s : State) (x : Word) : State.mask (haltDisplay s) x = s.mask x := rfl

/-! ### clearFrameLatch -/

@[simp] theorem clearFrameLatch_params (s : State) : (clearFrameLatch s).params = s.params := rfl
@[simp] theorem clearFrameLatch_main (s : State) : (clearFrameLatch s).main = s.main := rfl
@[simp] theorem clearFrameLatch_disp (s : State) : (clearFrameLatch s).disp = { s.disp with frameLatch := false } := rfl
@[simp] theorem clearFrameLatch_mem (s : State) : (clearFrameLatch s).mem = s.mem := rfl
@[simp] theorem clearFrameLatch_mcache (s : State) : (clearFrameLatch s).mcache = s.mcache := rfl
@[simp] theorem clearFrameLatch_dcache (s : State) : (clearFrameLatch s).dcache = s.dcache := rfl
@[simp] theorem clearFrameLatch_usage (s : State) : (clearFrameLatch s).usage = s.usage := rfl
@[simp] theorem clearFrameLatch_inputs (s : State) : (clearFrameLatch s).inputs = s.inputs := rfl
@[simp] theorem clearFrameLatch_devices (s : State) : (clearFrameLatch s).devices = s.devices := rfl
@[simp] theorem clearFrameLatch_sink (s : State) : (clearFrameLatch s).sink = s.sink := rfl
@[simp] theorem clearFrameLatch_log (s : State) : (clearFrameLatch s).log = s.log := rfl
@[simp] theorem clearFrameLatch_agenda (s : State) : (clearFrameLatch s).agenda = s.agenda := rfl
@[simp] theorem clearFrameLatch_tick (s : State) : (clearFrameLatch s).tick = s.tick := rfl
@[simp] theorem clearFrameLatch_mask (s : State) (x : Word) : State.mask (clearFrameLatch s) x = s.mask x := rfl

end Sys2Proof.Machine
end

