-- ==== Sys2Proof/Laws/Memory.lean ====
section
/-! SUPPORT. The laws of the tables by address and of memory: what a read after a write gives, and that
every memory operation keeps the canonical form. -/

namespace Sys2Proof.Machine

/-! ## Tables -/

@[simp] theorem lookup_nil {α : Type} (k : Nat) : lookup k ([] : List (Nat × α)) = none := rfl

theorem lookup_insertAt {α : Type} (k a : Nat) (v : α) (m : List (Nat × α)) :
    lookup a (insertAt k v m) = if a = k then some v else lookup a m := by
  induction m with
  | nil => simp only [insertAt, lookup, @eq_comm _ a k]
  | cons e rest ih =>
    obtain ⟨b, w⟩ := e
    simp only [insertAt]
    split
    · simp only [lookup, @eq_comm _ a k]
    · split
      · subst_vars; simp only [lookup, @eq_comm _ a b]; split <;> rfl
      · rename_i hk
        simp only [lookup, ih]
        by_cases hb : b = a
        · subst hb; rw [if_pos rfl, if_pos rfl, if_neg (Ne.symm hk)]
        · rw [if_neg hb, if_neg hb]

theorem lookup_eraseAt {α : Type} (k a : Nat) (m : List (Nat × α)) :
    lookup a (eraseAt k m) = if a = k then none else lookup a m := by
  induction m with
  | nil => simp [eraseAt]
  | cons e rest ih =>
    obtain ⟨b, w⟩ := e
    simp only [eraseAt]
    split
    · rename_i hk
      subst hk
      rw [ih]
      by_cases h : a = b
      · rw [if_pos h, if_pos h]
      · rw [if_neg h, if_neg h]; simp only [lookup]; rw [if_neg (Ne.symm h)]
    · rename_i hk
      simp only [lookup, ih]
      by_cases hb : b = a
      · subst hb; rw [if_pos rfl, if_pos rfl, if_neg hk]
      · rw [if_neg hb, if_neg hb]

theorem mem_insertAt {α : Type} {k : Nat} {v : α} {m : List (Nat × α)} {e : Nat × α}
    (h : e ∈ insertAt k v m) : e = (k, v) ∨ e ∈ m := by
  induction m with
  | nil => simp_all [insertAt]
  | cons b rest ih =>
    simp only [insertAt] at h
    split at h
    · simp_all
    · split at h
      · simp_all; tauto
      · simp only [List.mem_cons] at h ⊢
        rcases h with h | h
        · exact .inr (.inl h)
        · exact (ih h).imp id .inr

theorem mem_eraseAt {α : Type} {k : Nat} {m : List (Nat × α)} {e : Nat × α}
    (h : e ∈ eraseAt k m) : e ∈ m := by
  induction m with
  | nil => simp_all [eraseAt]
  | cons b rest ih =>
    simp only [eraseAt] at h
    split at h
    · exact .tail _ (ih h)
    · rcases List.mem_cons.mp h with h | h
      · exact h ▸ .head _
      · exact .tail _ (ih h)

theorem rising_cons {α : Type} (e : Nat × α) (m : List (Nat × α)) :
    rising (e :: m) = true ↔ (∀ x ∈ m, e.1 < x.1) ∧ rising m = true := by
  simp [rising, List.all_eq_true]

theorem rising_insertAt {α : Type} (k : Nat) (v : α) (m : List (Nat × α))
    (h : rising m = true) : rising (insertAt k v m) = true := by
  induction m with
  | nil => simp [insertAt, rising]
  | cons e rest ih =>
    obtain ⟨b, w⟩ := e
    obtain ⟨hb, hr⟩ := (rising_cons _ _).mp h
    simp only [insertAt]
    split
    · rename_i hk
      refine (rising_cons _ _).mpr ⟨fun x hx => ?_, h⟩
      rcases List.mem_cons.mp hx with rfl | hx
      · exact hk
      · exact Nat.lt_trans hk (hb x hx)
    · split
      · subst_vars; exact (rising_cons _ _).mpr ⟨hb, hr⟩
      · refine (rising_cons _ _).mpr ⟨fun x hx => ?_, ih hr⟩
        rcases mem_insertAt hx with rfl | hx
        · show b < k; omega
        · exact hb x hx

theorem rising_eraseAt {α : Type} (k : Nat) (m : List (Nat × α)) (h : rising m = true) :
    rising (eraseAt k m) = true := by
  induction m with
  | nil => rfl
  | cons e rest ih =>
    obtain ⟨hb, hr⟩ := (rising_cons _ _).mp h
    simp only [eraseAt]
    split
    · exact ih hr
    · exact (rising_cons _ _).mpr ⟨fun x hx => hb x (mem_eraseAt hx), ih hr⟩

/-! ## Bytes -/

theorem readByte_writeByte (m : List Host.Cell) (k a : Nat) (v : Byte) :
    readByte (writeByte m k v) a = if a = k then v else readByte m a := by
  unfold readByte writeByte
  rw [lookup_insertAt]
  split <;> rfl

/-- A byte that nothing has stored reads as the free power-on content (R364). -/
theorem readByte_unlisted {m : List Host.Cell} {k : Nat} (h : lookup k m = none) :
    readByte m k = Config.powerOnByte k := by
  simp only [readByte, h, Option.getD_none, unlistedByte]

theorem memoryWf_iff (m : List Host.Cell) : memoryWf m = true ↔ rising m = true := Iff.rfl

/-- A byte write keeps the canonical form. -/
theorem memoryWf_writeByte (m : List Host.Cell) (k : Nat) (v : Byte) (h : memoryWf m = true) :
    memoryWf (writeByte m k v) = true :=
  rising_insertAt k v m h

theorem mem_writeByte {m : List Host.Cell} {k : Nat} {v : Byte} {e : Host.Cell}
    (h : e ∈ writeByte m k v) : e.1 = k ∨ e ∈ m :=
  (mem_insertAt h).imp (fun h => congrArg Prod.fst h) id

/-! ## Words -/

theorem readByte_writeWord (m : List Host.Cell) (a k : Nat) (v : Word) :
    readByte (writeWord m a v) k =
      if k = 2 * a + 1 then v.extractLsb' 0 8
      else if k = 2 * a then v.extractLsb' 8 8 else readByte m k := by
  simp only [writeWord, readByte_writeByte]

theorem append_halves (v : Word) :
    (v.extractLsb' 8 8 ++ v.extractLsb' 0 8 : BitVec 16) = v := by
  ext i hi
  simp only [BitVec.getElem_append, BitVec.getElem_extractLsb']
  split
  · simp [BitVec.getLsbD_eq_getElem hi]
  · rename_i h
    have : 8 + (i - 8) = i := by omega
    simp [this, BitVec.getLsbD_eq_getElem hi]

theorem readWord_writeWord (m : List Host.Cell) (a b : Nat) (v : Word) :
    readWord (writeWord m a v) b = if b = a then v else readWord m b := by
  simp only [readWord, readByte_writeWord]
  by_cases h : b = a
  · subst h
    have h1 : ¬ (2 * b = 2 * b + 1) := by omega
    simp only [h1, if_true, if_false]
    exact append_halves v
  · have h1 : ¬ (2 * b = 2 * a + 1) := by omega
    have h2 : ¬ (2 * b = 2 * a) := by omega
    have h3 : ¬ (2 * b + 1 = 2 * a + 1) := by omega
    have h4 : ¬ (2 * b + 1 = 2 * a) := by omega
    simp only [h, h1, h2, h3, h4, if_false]

theorem memoryWf_writeWord (m : List Host.Cell) (a : Nat) (v : Word) (h : memoryWf m = true) :
    memoryWf (writeWord m a v) = true :=
  memoryWf_writeByte _ _ _ (memoryWf_writeByte _ _ _ h)

theorem lookup_writeWord (m : List Host.Cell) (a k : Nat) (v : Word) :
    lookup k (writeWord m a v) =
      if k = 2 * a + 1 then some (v.extractLsb' 0 8)
      else if k = 2 * a then some (v.extractLsb' 8 8) else lookup k m := by
  simp only [writeWord, writeByte, lookup_insertAt]

/-- A word write lists words whole. -/
theorem wholeWords_writeWord (m : List Host.Cell) (a : Nat) (v : Word) (h : wholeWords m) :
    wholeWords (writeWord m a v) := by
  intro b
  have hb := h b
  simp only [lookup_writeWord]
  by_cases hab : b = a
  · subst hab; simp
  · have h1 : ¬ (2 * b = 2 * a + 1) := by omega
    have h2 : ¬ (2 * b = 2 * a) := by omega
    have h3 : ¬ (2 * b + 1 = 2 * a + 1) := by omega
    have h4 : ¬ (2 * b + 1 = 2 * a) := by omega
    simpa only [h1, h2, h3, h4, if_false] using hb

theorem wholeWords_nil : wholeWords [] := fun _ => rfl

theorem mem_writeWord {m : List Host.Cell} {a : Nat} {v : Word} {e : Host.Cell}
    (h : e ∈ writeWord m a v) : e.1 = 2 * a ∨ e.1 = 2 * a + 1 ∨ e ∈ m := by
  rcases mem_writeByte h with h | h
  · exact .inr (.inl h)
  · exact (mem_writeByte h).imp id .inr

/-- Memory at reset is in the canonical form: nothing is stored. -/
theorem reset_memoryWf : memoryWf State.reset.mem = true := rfl

/-- Every byte of memory at reset is the free power-on content (R364). -/
theorem reset_readByte (k : Nat) : readByte State.reset.mem k = Config.powerOnByte k := rfl

/-! ## The Word Store port -/

theorem memRead_memWrite (s : State) (a b v : Word) :
    memRead (memWrite s a v) b = if s.mask b = s.mask a then v else memRead s b := by
  simp only [memRead, memWrite_mask, memWrite_mem, readWord_writeWord, BitVec.toNat_inj]

@[simp] theorem onMain_memRead (s : State) (f : MainRegs → MainRegs) (a : Word) :
    memRead (s.onMain f) a = memRead s a := rfl

@[simp] theorem onDisp_memRead (s : State) (f : DispRegs → DispRegs) (a : Word) :
    memRead (s.onDisp f) a = memRead s a := rfl

/-- `MemWrite` is exactly one store. -/
theorem memWrite_storedWord (s : State) (a v : Word) : storedWord s (memWrite s a v) a v where
  word := by simp [memRead_memWrite]
  others k h0 h1 := by simp only [memWrite_mem, readByte_writeWord, h0, h1, if_false]
  mcache b := by simp only [memWrite_mcache, lookup_eraseAt]
  dcache b := by simp only [memWrite_dcache, lookup_eraseAt]
  usage b := by simp only [memWrite_usage, lookup_eraseAt]

/-! ## Masks -/

theorem maskA_toNat (p : Params) : (maskA p).toNat = 2 ^ min p.addrBits 16 - 1 := by
  unfold maskA
  rw [BitVec.toNat_ofNat]
  rcases Nat.le_total p.addrBits 16 with h | h
  · rw [Nat.min_eq_left h, Nat.mod_eq_of_lt]
    have : 2 ^ p.addrBits ≤ 2 ^ 16 := Nat.pow_le_pow_right (by omega) h
    have : 0 < 2 ^ p.addrBits := Nat.two_pow_pos _
    omega
  · rw [Nat.min_eq_right h]
    obtain ⟨k, hk⟩ := Nat.exists_eq_add_of_le h
    rw [hk, Nat.pow_add]
    have : 0 < 2 ^ k := Nat.two_pow_pos _
    have e : 2 ^ 16 * 2 ^ k - 1 = (2 ^ 16 - 1) + 2 ^ 16 * (2 ^ k - 1) := by
      rw [Nat.mul_sub]; omega
    rw [e, Nat.add_mul_mod_self_left]; rfl

/-- Reduction by `MASK_A` is the remainder modulo the size of memory (R3). -/
theorem mask_toNat (s : State) (a : Word) :
    (s.mask a).toNat = a.toNat % 2 ^ min s.params.addrBits 16 := by
  simp only [State.mask, BitVec.toNat_and, maskA_toNat]
  exact Nat.and_two_pow_sub_one_eq_mod _ _

theorem mask_inRange (s : State) (a : Word) : inRange s.params (s.mask a) := by
  unfold inRange
  rw [mask_toNat]
  exact Nat.lt_of_lt_of_le (Nat.mod_lt _ (Nat.two_pow_pos _))
    (Nat.pow_le_pow_right (by omega) (Nat.min_le_left _ _))

/-- An address in range is not changed by the reduction. -/
theorem mask_of_inRange (s : State) (a : Word) (h : inRange s.params a) : s.mask a = a := by
  apply BitVec.eq_of_toNat_eq
  rw [mask_toNat]
  apply Nat.mod_eq_of_lt
  rcases Nat.le_total s.params.addrBits 16 with h16 | h16
  · rw [Nat.min_eq_left h16]; exact h
  · rw [Nat.min_eq_right h16]; exact a.isLt

@[simp] theorem mask_mask (s : State) (a : Word) : s.mask (s.mask a) = s.mask a :=
  mask_of_inRange s _ (mask_inRange s a)

theorem zero_inRange (p : Params) : inRange p 0 := by simp [inRange]

end Sys2Proof.Machine
end

