-- ==== Sys2Proof/Laws/Ops.lean ====
section
/-! SUPPORT. One lemma for each shared operation, saying once everything it can do, in the terms of
Sys2Proof/Safety.lean. -/

namespace Sys2Proof.Machine

/-! ## Breakpoints and completion -/

theorem breakpointAt_iff (s : State) (k : BreakKind) (a : Word) :
    breakpointAt s k a = true ↔ (⟨k, a⟩ : Breakpoint) ∈ s.inputs.breakpoints := by
  simp [breakpointAt]

/-- The Main registers after a breakpoint test for `b`. -/
def afterTest (points : List Breakpoint) (b : Breakpoint) (m : MainRegs) : MainRegs :=
  if b ∈ points then { m with mstate := .breakpointHalt, bpAddr := b.addr } else m

/-- No access: only the Execution test (R127). -/
theorem stopAfter_nil (s : State) (before : ProcState × Word) (next : Word) :
    stopAfter s before [] next =
      if before.1 ≠ .halted ∧ (⟨.execution, s.mask next⟩ : Breakpoint) ∈ s.inputs.breakpoints then
        (.breakpointHalt, s.mask next)
      else before := rfl

/-- The first access is tested first (R128). -/
theorem stopAfter_cons (s : State) (before : ProcState × Word) (b : Breakpoint)
    (accesses : List Breakpoint) (next : Word) :
    stopAfter s before (b :: accesses) next =
      stopAfter s (if b ∈ s.inputs.breakpoints then (.breakpointHalt, b.addr) else before)
        accesses next := rfl

/-- `Complete()` writes PC, MSTATE and MBPADDR as `stopAfter` says, and nothing else. -/
theorem complete_eq (next : Word) (s : State) :
    complete next s =
      s.onMain fun m => { m with
        pc := s.mask next
        mstate := (stopAfter s (m.mstate, m.bpAddr) [] next).1
        bpAddr := (stopAfter s (m.mstate, m.bpAddr) [] next).2 } := by
  simp only [complete, stopAfter_nil, hitMainBreakpoint, breakpointAt_iff, State.onMain]
  split
  all_goals rfl

/-- In a state whose FSM is Fetch, `Complete()` is the completion of R127. -/
theorem complete_of_fetch (next : Word) (s : State) (h : s.main.fsm = .fetch) :
    complete next s = { s with main := completedMain s [] next } := by
  rw [complete_eq]
  simp only [State.onMain, completedMain, ← h]

/-- A test made before is one access more of the completion. -/
theorem completedMain_afterTest (s : State) (b : Breakpoint) (accesses : List Breakpoint)
    (next : Word) :
    completedMain (s.onMain (afterTest s.inputs.breakpoints b)) accesses next =
      completedMain s (b :: accesses) next := by
  rw [completedMain, completedMain, stopAfter_cons]
  simp only [onMain_main]
  unfold afterTest
  split <;> rfl

/-- A test made before a change `g` that leaves the run state alone may be counted after it. -/
theorem completedMain_change_after_test (s : State) (b : Breakpoint) (g : MainRegs → MainRegs)
    (accesses : List Breakpoint) (next : Word)
    (hg : ∀ m, g (afterTest s.inputs.breakpoints b m) = afterTest s.inputs.breakpoints b (g m)) :
    completedMain ((s.onMain (afterTest s.inputs.breakpoints b)).onMain g) accesses next =
      completedMain (s.onMain g) (b :: accesses) next := by
  rw [← completedMain_afterTest]
  simp only [State.onMain, hg]

theorem afterTest_setAcL (p : List Breakpoint) (b : Breakpoint) (m : MainRegs) (a : Word) (l : Bool) :
    afterTest p b { m with ac := a, l := l } = { afterTest p b m with ac := a, l := l } := by
  unfold afterTest; split <;> rfl

theorem afterTest_setAc (p : List Breakpoint) (b : Breakpoint) (m : MainRegs) (a : Word) :
    afterTest p b { m with ac := a } = { afterTest p b m with ac := a } := by
  unfold afterTest; split <;> rfl

/-- Storing a word does not change how an instruction completes. -/
@[simp] theorem completedMain_memWrite (s : State) (a v : Word) (accesses : List Breakpoint)
    (next : Word) :
    completedMain (memWrite s a v) accesses next = completedMain s accesses next := rfl

/-! ## Orders -/

theorem readOp_eq (s : State) :
    readOp s = (memRead s s.main.ea,
      s.onMain (afterTest s.inputs.breakpoints ⟨.read, s.main.ea⟩)) := by
  simp only [readOp, breakpointAt_iff, hitMainBreakpoint, State.onMain]
  unfold afterTest
  split <;> rfl

theorem writeOp_eq (v : Word) (s : State) :
    writeOp v s =
      memWrite (s.onMain (afterTest s.inputs.breakpoints ⟨.write, s.main.ea⟩)) s.main.ea v := by
  simp only [writeOp, breakpointAt_iff, hitMainBreakpoint, State.onMain]
  unfold afterTest
  split <;> rfl

@[simp] theorem afterTest_ea (p : List Breakpoint) (b : Breakpoint) (m : MainRegs) :
    (afterTest p b m).ea = m.ea := by unfold afterTest; split <;> rfl
@[simp] theorem afterTest_pc (p : List Breakpoint) (b : Breakpoint) (m : MainRegs) :
    (afterTest p b m).pc = m.pc := by unfold afterTest; split <;> rfl
@[simp] theorem afterTest_ac (p : List Breakpoint) (b : Breakpoint) (m : MainRegs) :
    (afterTest p b m).ac = m.ac := by unfold afterTest; split <;> rfl
@[simp] theorem afterTest_l (p : List Breakpoint) (b : Breakpoint) (m : MainRegs) :
    (afterTest p b m).l = m.l := by unfold afterTest; split <;> rfl
@[simp] theorem afterTest_ds (p : List Breakpoint) (b : Breakpoint) (m : MainRegs) :
    (afterTest p b m).ds = m.ds := by unfold afterTest; split <;> rfl
@[simp] theorem afterTest_fsm (p : List Breakpoint) (b : Breakpoint) (m : MainRegs) :
    (afterTest p b m).fsm = m.fsm := by unfold afterTest; split <;> rfl
@[simp] theorem afterTest_ir (p : List Breakpoint) (b : Breakpoint) (m : MainRegs) :
    (afterTest p b m).ir = m.ir := by unfold afterTest; split <;> rfl

/-- The Execute transition: the effect in the state with EA, then the completion. -/
theorem executeTransition_eq (ind : Bool) (d : BitVec 11) (p : Perform) (s : State) :
    executeTransition ind d p s =
      let r := p (s.onMain fun m => { m with ea := operandAddress s ind d })
      { r.1 with main := completedMain r.1 [] r.2 } := by
  have h : (if ind = true then s else s.onMain fun m => { m with ea := pageAddress s d }) =
      s.onMain fun m => { m with ea := operandAddress s ind d } := by
    cases ind <;> rfl
  simp only [executeTransition, h, complete_eq]
  rfl

/-- An order that reads its operand, changes the registers by `g` and goes on at `next`. -/
theorem orderNext_of_read (ind : Bool) (d : BitVec 11) (s : State) (g : MainRegs → MainRegs)
    (next : Word) (hg : ∀ p b m, g (afterTest p b m) = afterTest p b (g m)) :
    let t := ((s.onMain fun m => { m with ea := operandAddress s ind d }).onMain
      (afterTest s.inputs.breakpoints ⟨.read, operandAddress s ind d⟩)).onMain g
    { t with main := completedMain t [] next } = orderNext ind d g [.read] next s := by
  intro t
  have h := completedMain_change_after_test (s.onMain fun m => { m with ea := operandAddress s ind d })
    ⟨.read, operandAddress s ind d⟩ g [] next (fun m => hg _ _ m)
  exact congrArg (fun m => { s with main := m }) h

/-- The registers after an order that reads, then writes its operand, changing them by `g`. -/
theorem orderDone_of_read_write (ind : Bool) (d : BitVec 11) (s : State) (g : MainRegs → MainRegs)
    (next : Word) (hg : ∀ p b m, g (afterTest p b m) = afterTest p b (g m)) :
    completedMain ((((s.onMain fun m => { m with ea := operandAddress s ind d }).onMain
      (afterTest s.inputs.breakpoints ⟨.read, operandAddress s ind d⟩)).onMain
      (afterTest s.inputs.breakpoints ⟨.write, operandAddress s ind d⟩)).onMain g) [] next =
      orderDone ind d g [.read, .write] next s := by
  have h1 := completedMain_change_after_test
    ((s.onMain fun m => { m with ea := operandAddress s ind d }).onMain
      (afterTest s.inputs.breakpoints ⟨.read, operandAddress s ind d⟩))
    ⟨.write, operandAddress s ind d⟩ g [] next (fun m => hg _ _ m)
  have h2 := completedMain_change_after_test
    (s.onMain fun m => { m with ea := operandAddress s ind d })
    ⟨.read, operandAddress s ind d⟩ g [⟨.write, operandAddress s ind d⟩] next (fun m => hg _ _ m)
  exact h1.trans h2

theorem runOrder_execute (i : Instr) (ind : Bool) (d : BitVec 11) (p : Perform) (s : State)
    (h : s.main.fsm = .execute) :
    runOrder i ind d p s =
      let r := p (s.onMain fun m => { m with ea := operandAddress s ind d })
      .next { r.1 with main := completedMain r.1 [] r.2 } := by
  simp only [runOrder, h, executeTransition_eq]

theorem runOrder_fetch (i : Instr) (ind : Bool) (d : BitVec 11) (p : Perform) (s : State)
    (h : s.main.fsm = .fetch) :
    runOrder i ind d p s = .next (latch i (if ind then .defer else .execute) s) := by
  simp only [runOrder, h]

theorem runOrder_defer (i : Instr) (ind : Bool) (d : BitVec 11) (p : Perform) (s : State)
    (h : s.main.fsm = .defer) : runOrder i ind d p s = .next (deferTransition d s) := by
  simp only [runOrder, h]

/-- An order always answers a next state. -/
theorem runOrder_goesOn (i : Instr) (ind : Bool) (d : BitVec 11) (p : Perform) (s : State) :
    goesOn (runOrder i ind d p s) := by
  unfold runOrder; split <;> exact ⟨_, rfl⟩

/-- The index test in numbers (R125). -/
theorem isIndexCell_iff (p : Word) :
    isIndexCell p = true ↔ 8 ≤ p.toNat % 2 ^ 11 ∧ p.toNat % 2 ^ 11 ≤ 15 := by
  have h : (p &&& pageOffsetMask).toNat = p.toNat % 2 ^ 11 := by
    rw [BitVec.toNat_and]; exact Nat.and_two_pow_sub_one_eq_mod p.toNat 11
  simp only [isIndexCell, Bool.and_eq_true, decide_eq_true_eq, BitVec.le_def, h]
  rfl

/-- The Defer transition (R122): EA and FSM, and one store exactly at an index cell. -/
theorem deferTransition_eq (d : BitVec 11) (s : State) :
    deferTransition d s =
      (if isIndexCell (pageAddress s d) then
        memWrite s (pageAddress s d) (memRead s (pageAddress s d) + 1) else s).onMain fun m =>
        { m with
          ea := s.mask (memRead s (pageAddress s d) +
                  (if isIndexCell (pageAddress s d) then 1 else 0))
          fsm := .execute } := by
  cases h : isIndexCell (pageAddress s d)
  · simp only [deferTransition, autoIncrement, h, Bool.false_eq_true, if_false,
      show ∀ x : Word, x + 0 = x from BitVec.add_zero]
  · simp only [deferTransition, autoIncrement, h, if_true, memRead_memWrite, memWrite_mask]

/-! ## Operate instructions -/

theorem runOperate_eq (i : Instr) (p : Perform) (s : State) :
    runOperate i p s = .next (complete (p (latch i .fetch s)).2 (p (latch i .fetch s)).1) := rfl

/-! ## Display instructions -/

/-- A return, or none, and the new DPC (R252, R253). -/
theorem displayReturn_done (ret : Bool) (dnext : Word) (s : State) :
    ((if ret then displayReturn dnext s else (dnext, s)).2.onDisp fun d =>
        { d with dpc := (if ret then displayReturn dnext s else (dnext, s)).2.mask
                          (if ret then displayReturn dnext s else (dnext, s)).1 }) =
      displayDone ret dnext s := by
  cases ret
  · rfl
  · unfold displayReturn displayDone
    simp only [if_true]
    split
    · rename_i h; simp only [h, State.onDisp, logEvent]; rfl
    · rename_i h; simp only [h]; rfl

theorem nextHalf_eq (s : State) : nextHalf s = halfDone s := by
  unfold nextHalf halfDone
  cases s.disp.half <;> rfl

theorem escape_eq (rjm : Bool) (s : State) :
    escape rjm s =
      displayDone rjm (s.disp.dpc + 1) { s with disp := { s.disp with dmode := .processor } } := by
  unfold escape
  exact displayReturn_done rjm _ _

theorem frameTick_eq (s : State) :
    frameTick s =
      if s.params.frameCycles < s.disp.frameCnt + 1 then
        { s with disp := { s.disp with frameCnt := 0, frameLatch := true }
                 sink := s.sink ++ [.frameDone] }
      else { s with disp := { s.disp with frameCnt := s.disp.frameCnt + 1 } } := rfl

theorem displayBreakpointTest_eq (s : State) :
    displayBreakpointTest s =
      if s.disp.dstate = .running ∧ (s.disp.dmode = .processor ∨ s.disp.half = .first)
          ∧ (⟨.display, s.disp.dpc⟩ : Breakpoint) ∈ s.inputs.breakpoints then
        { s with disp := { s.disp with dstate := .breakpointHalt, bpAddr := s.disp.dpc } }
      else s := by
  simp only [displayBreakpointTest, breakpointAt_iff]
  rfl

theorem resumeHaltedDisplay_eq (s : State) :
    resumeHaltedDisplay s = { s with disp := displayOn true s.disp } := by
  simp only [resumeHaltedDisplay, displayOn, true_and]
  split <;> rfl

theorem whenSet_resume_eq (on : Bool) (s : State) :
    whenSet on resumeHaltedDisplay s = { s with disp := displayOn on s.disp } := by
  cases on
  · simp [whenSet, displayOn]
  · exact resumeHaltedDisplay_eq s

/-- A branch operand is the data modulo `2^DBLOCK_BITS` (R97). -/
@[simp] theorem branchField_toNat (k : Nat) (a : BitVec 12) :
    (branchField k a).toNat = a.toNat % 2 ^ k := by
  have h : a.toNat % 2 ^ k ≤ a.toNat := Nat.mod_le _ _
  simp only [branchField, BitVec.toNat_ofNat]
  omega

/-- Taking the operand of an operand changes nothing. -/
@[simp] theorem branchField_branchField (k : Nat) (a : BitVec 12) :
    branchField k (branchField k a) = branchField k a :=
  BitVec.eq_of_toNat_eq (by simp)

/-- A well-formed branch has its operand whole (R97). -/
theorem branchField_of_lt {k : Nat} {a : BitVec 12} (h : a.toNat < 2 ^ k) : branchField k a = a :=
  BitVec.eq_of_toNat_eq (by simp [Nat.mod_eq_of_lt h])

/-- The target of a branch depends on the operand's low `DBLOCK_BITS` bits alone (R277). -/
@[simp] theorem branchTarget_branchField (s : State) (a : BitVec 12) :
    branchTarget s (branchField s.params.dblockBits a) = branchTarget s a := by
  simp [branchTarget]

/-- A relative move in one coordinate, as arithmetic of eleven bits (R22). -/
theorem dacMove_eq (v : Dac) (negative : Bool) (k : Nat) :
    dacMove v negative k =
      if negative then v - BitVec.ofNat 11 k else v + BitVec.ofNat 11 k := by
  unfold dacMove
  cases negative
  · simp only [Bool.false_eq_true, if_false, BitVec.ofInt_add, BitVec.ofInt_natCast,
      BitVec.ofNat_toNat, BitVec.setWidth_eq]
  · simp only [if_true, Int.sub_eq_add_neg, BitVec.ofInt_add, BitVec.ofInt_neg,
      BitVec.ofInt_natCast, BitVec.ofNat_toNat, BitVec.setWidth_eq, BitVec.sub_eq_add_neg]

/-! ## Fetches -/

/-- A coherent Main cache answers the decoding of memory (R66). -/
theorem fetchMainWord_fst (s : State) (a : Word) (h : cachesCoherent s) :
    (fetchMainWord s a).1 = decodeMainWord (memRead s a) := by
  unfold fetchMainWord
  simp only
  split
  · rename_i i hi; exact h.main _ _ hi
  · rfl

/-- A coherent Display cache answers the decoding of memory (R66). -/
theorem fetchDisplayWord_fst (s : State) (a : Word) (h : cachesCoherent s) :
    (fetchDisplayWord s a).1 = decodeDisplayWord s.params.dblockBits (memRead s a) := by
  unfold fetchDisplayWord
  simp only
  split
  · rename_i i hi; exact h.display _ _ hi
  · rfl

/-- What a Main fetch leaves: the slot of the address filled if the word has a decoding (R64). -/
theorem fetchMainWord_snd (s : State) (a : Word) :
    ∃ mc, (fetchMainWord s a).2 = { s with mcache := mc }
      ∧ (isUnassigned (fetchMainWord s a).1 = false → ∀ b, lookup b mc =
          if b = (s.mask a).toNat then some (fetchMainWord s a).1 else lookup b s.mcache)
      ∧ (∀ b, lookup b mc = lookup b s.mcache
          ∨ (b = (s.mask a).toNat ∧ lookup b mc = some (decodeMainWord (memRead s a)))) := by
  unfold fetchMainWord
  simp only
  split
  · rename_i i hi
    refine ⟨s.mcache, rfl, fun _ b => ?_, fun b => .inl rfl⟩
    split
    · subst_vars; exact hi
    · rfl
  · split
    · rename_i hu
      exact ⟨s.mcache, rfl, fun h => by simp_all, fun b => .inl rfl⟩
    · refine ⟨_, rfl, fun _ b => lookup_insertAt _ _ _ _, fun b => ?_⟩
      rw [lookup_insertAt]
      split
      · subst_vars; exact .inr ⟨rfl, rfl⟩
      · exact .inl rfl

/-- What a Display fetch leaves: the slot filled and tagged if the word has a decoding (R64, R252). -/
theorem fetchDisplayWord_snd (s : State) (a : Word) :
    ∃ dc us, (fetchDisplayWord s a).2 = { s with dcache := dc, usage := us }
      ∧ (isUnassigned (fetchDisplayWord s a).1 = false →
          (∀ b, lookup b dc =
            if b = (s.mask a).toNat then some (fetchDisplayWord s a).1 else lookup b s.dcache)
          ∧ ∀ b, lookup b us =
            if b = (s.mask a).toNat then some .processor else lookup b s.usage)
      ∧ (∀ b, lookup b dc = lookup b s.dcache
          ∨ (b = (s.mask a).toNat ∧ lookup b dc = some (decodeDisplayWord s.params.dblockBits (memRead s a)))) := by
  unfold fetchDisplayWord
  simp only
  split
  · rename_i i hi
    refine ⟨s.dcache, _, rfl, fun _ => ⟨fun b => ?_, fun b => lookup_insertAt _ _ _ _⟩,
      fun b => .inl rfl⟩
    split
    · subst_vars; exact hi
    · rfl
  · split
    · rename_i hu
      exact ⟨s.dcache, s.usage, rfl, fun h => by simp_all, fun b => .inl rfl⟩
    · refine ⟨_, _, rfl, fun _ => ⟨fun b => lookup_insertAt _ _ _ _,
        fun b => lookup_insertAt _ _ _ _⟩, fun b => ?_⟩
      rw [lookup_insertAt]
      split
      · subst_vars; exact .inr ⟨rfl, rfl⟩
      · exact .inl rfl

end Sys2Proof.Machine
end

