-- ==== Sys2Proof/Laws/PerInstr.lean ====
section
/-! SUPPORT. The form of an instruction's encoding, one lemma per constructor: an expansion is its own
expansion and belongs to the same decoder, the instruction has the word of its expansion, and its
bytes are one for a half and two for a word (spec 30_encoding.md R80, R105). -/

namespace Sys2Proof.Laws

/-- What holds of the encoding of every instruction. -/
def EncodingForm.Statement (i : Instr) : Prop :=
  i.expand.expand = i.expand ∧ i.expand.decoder = i.decoder ∧ encodeWord i.expand = encodeWord i
    ∧ (encode i).length = (if i.decoder = .half then 1 else 2)

theorem EncodingForm.opr (nh oda cml cll iac cma cla : Bool) :
    EncodingForm.Statement (.opr nh oda cml cll iac cma cla) := ⟨rfl, rfl, rfl, rfl⟩
theorem EncodingForm.ral (don : Bool) (cnt : BitVec 2) :
    EncodingForm.Statement (.ral don cnt) := ⟨rfl, rfl, rfl, rfl⟩
theorem EncodingForm.rar (don : Bool) (cnt : BitVec 2) :
    EncodingForm.Statement (.rar don cnt) := ⟨rfl, rfl, rfl, rfl⟩
theorem EncodingForm.sal (don : Bool) (cnt : BitVec 2) :
    EncodingForm.Statement (.sal don cnt) := ⟨rfl, rfl, rfl, rfl⟩
theorem EncodingForm.sar (don : Bool) (cnt : BitVec 2) :
    EncodingForm.Statement (.sar don cnt) := ⟨rfl, rfl, rfl, rfl⟩
theorem EncodingForm.skp (neg : Bool) (cond : BitVec 9) :
    EncodingForm.Statement (.skp neg cond) := ⟨rfl, rfl, rfl, rfl⟩
theorem EncodingForm.iot (code : IotCode) :
    EncodingForm.Statement (.iot code) := ⟨rfl, rfl, rfl, rfl⟩
theorem EncodingForm.law (imm : BitVec 11) :
    EncodingForm.Statement (.law imm) := ⟨rfl, rfl, rfl, rfl⟩
theorem EncodingForm.lwc (imm : BitVec 11) :
    EncodingForm.Statement (.lwc imm) := ⟨rfl, rfl, rfl, rfl⟩
theorem EncodingForm.jmp (ind : Bool) (addr : BitVec 11) :
    EncodingForm.Statement (.jmp ind addr) := ⟨rfl, rfl, rfl, rfl⟩
theorem EncodingForm.dac (ind : Bool) (addr : BitVec 11) :
    EncodingForm.Statement (.dac ind addr) := ⟨rfl, rfl, rfl, rfl⟩
theorem EncodingForm.xam (ind : Bool) (addr : BitVec 11) :
    EncodingForm.Statement (.xam ind addr) := ⟨rfl, rfl, rfl, rfl⟩
theorem EncodingForm.isz (ind : Bool) (addr : BitVec 11) :
    EncodingForm.Statement (.isz ind addr) := ⟨rfl, rfl, rfl, rfl⟩
theorem EncodingForm.jms (ind : Bool) (addr : BitVec 11) :
    EncodingForm.Statement (.jms ind addr) := ⟨rfl, rfl, rfl, rfl⟩
theorem EncodingForm.and (ind : Bool) (addr : BitVec 11) :
    EncodingForm.Statement (.and ind addr) := ⟨rfl, rfl, rfl, rfl⟩
theorem EncodingForm.ior (ind : Bool) (addr : BitVec 11) :
    EncodingForm.Statement (.ior ind addr) := ⟨rfl, rfl, rfl, rfl⟩
theorem EncodingForm.xor (ind : Bool) (addr : BitVec 11) :
    EncodingForm.Statement (.xor ind addr) := ⟨rfl, rfl, rfl, rfl⟩
theorem EncodingForm.lac (ind : Bool) (addr : BitVec 11) :
    EncodingForm.Statement (.lac ind addr) := ⟨rfl, rfl, rfl, rfl⟩
theorem EncodingForm.add (ind : Bool) (addr : BitVec 11) :
    EncodingForm.Statement (.add ind addr) := ⟨rfl, rfl, rfl, rfl⟩
theorem EncodingForm.sub (ind : Bool) (addr : BitVec 11) :
    EncodingForm.Statement (.sub ind addr) := ⟨rfl, rfl, rfl, rfl⟩
theorem EncodingForm.sam (ind : Bool) (addr : BitVec 11) :
    EncodingForm.Statement (.sam ind addr) := ⟨rfl, rfl, rfl, rfl⟩
theorem EncodingForm.unassignedIot (w : Word) :
    EncodingForm.Statement (.unassignedIot w) := ⟨rfl, rfl, rfl, rfl⟩
theorem EncodingForm.unassignedShift (w : Word) :
    EncodingForm.Statement (.unassignedShift w) := ⟨rfl, rfl, rfl, rfl⟩
theorem EncodingForm.unassignedOrder3 (w : Word) :
    EncodingForm.Statement (.unassignedOrder3 w) := ⟨rfl, rfl, rfl, rfl⟩
theorem EncodingForm.unassignedOrder8 (w : Word) :
    EncodingForm.Statement (.unassignedOrder8 w) := ⟨rfl, rfl, rfl, rfl⟩
theorem EncodingForm.hlt :
    EncodingForm.Statement .hlt := ⟨rfl, rfl, rfl, rfl⟩
theorem EncodingForm.nop :
    EncodingForm.Statement .nop := ⟨rfl, rfl, rfl, rfl⟩
theorem EncodingForm.cla :
    EncodingForm.Statement .cla := ⟨rfl, rfl, rfl, rfl⟩
theorem EncodingForm.cma :
    EncodingForm.Statement .cma := ⟨rfl, rfl, rfl, rfl⟩
theorem EncodingForm.sta :
    EncodingForm.Statement .sta := ⟨rfl, rfl, rfl, rfl⟩
theorem EncodingForm.iac :
    EncodingForm.Statement .iac := ⟨rfl, rfl, rfl, rfl⟩
theorem EncodingForm.coa :
    EncodingForm.Statement .coa := ⟨rfl, rfl, rfl, rfl⟩
theorem EncodingForm.cia :
    EncodingForm.Statement .cia := ⟨rfl, rfl, rfl, rfl⟩
theorem EncodingForm.cll :
    EncodingForm.Statement .cll := ⟨rfl, rfl, rfl, rfl⟩
theorem EncodingForm.cal :
    EncodingForm.Statement .cal := ⟨rfl, rfl, rfl, rfl⟩
theorem EncodingForm.cml :
    EncodingForm.Statement .cml := ⟨rfl, rfl, rfl, rfl⟩
theorem EncodingForm.stl :
    EncodingForm.Statement .stl := ⟨rfl, rfl, rfl, rfl⟩
theorem EncodingForm.oda :
    EncodingForm.Statement .oda := ⟨rfl, rfl, rfl, rfl⟩
theorem EncodingForm.lda :
    EncodingForm.Statement .lda := ⟨rfl, rfl, rfl, rfl⟩
theorem EncodingForm.don :
    EncodingForm.Statement .don := ⟨rfl, rfl, rfl, rfl⟩
theorem EncodingForm.asz :
    EncodingForm.Statement .asz := ⟨rfl, rfl, rfl, rfl⟩
theorem EncodingForm.asn :
    EncodingForm.Statement .asn := ⟨rfl, rfl, rfl, rfl⟩
theorem EncodingForm.asp :
    EncodingForm.Statement .asp := ⟨rfl, rfl, rfl, rfl⟩
theorem EncodingForm.asm :
    EncodingForm.Statement .asm := ⟨rfl, rfl, rfl, rfl⟩
theorem EncodingForm.lsz :
    EncodingForm.Statement .lsz := ⟨rfl, rfl, rfl, rfl⟩
theorem EncodingForm.lsn :
    EncodingForm.Statement .lsn := ⟨rfl, rfl, rfl, rfl⟩
theorem EncodingForm.dsf :
    EncodingForm.Statement .dsf := ⟨rfl, rfl, rfl, rfl⟩
theorem EncodingForm.dsn :
    EncodingForm.Statement .dsn := ⟨rfl, rfl, rfl, rfl⟩
theorem EncodingForm.ksf :
    EncodingForm.Statement .ksf := ⟨rfl, rfl, rfl, rfl⟩
theorem EncodingForm.ksn :
    EncodingForm.Statement .ksn := ⟨rfl, rfl, rfl, rfl⟩
theorem EncodingForm.rsf :
    EncodingForm.Statement .rsf := ⟨rfl, rfl, rfl, rfl⟩
theorem EncodingForm.rsn :
    EncodingForm.Statement .rsn := ⟨rfl, rfl, rfl, rfl⟩
theorem EncodingForm.tsf :
    EncodingForm.Statement .tsf := ⟨rfl, rfl, rfl, rfl⟩
theorem EncodingForm.tsn :
    EncodingForm.Statement .tsn := ⟨rfl, rfl, rfl, rfl⟩
theorem EncodingForm.ssf :
    EncodingForm.Statement .ssf := ⟨rfl, rfl, rfl, rfl⟩
theorem EncodingForm.ssn :
    EncodingForm.Statement .ssn := ⟨rfl, rfl, rfl, rfl⟩
theorem EncodingForm.hsf :
    EncodingForm.Statement .hsf := ⟨rfl, rfl, rfl, rfl⟩
theorem EncodingForm.hsn :
    EncodingForm.Statement .hsn := ⟨rfl, rfl, rfl, rfl⟩
theorem EncodingForm.dla :
    EncodingForm.Statement .dla := ⟨rfl, rfl, rfl, rfl⟩
theorem EncodingForm.dof :
    EncodingForm.Statement .dof := ⟨rfl, rfl, rfl, rfl⟩
theorem EncodingForm.scf :
    EncodingForm.Statement .scf := ⟨rfl, rfl, rfl, rfl⟩
theorem EncodingForm.drs :
    EncodingForm.Statement .drs := ⟨rfl, rfl, rfl, rfl⟩
theorem EncodingForm.dopr (nh sync ixm iym dxm dym rjm dsp : Bool) (f c : BitVec 2) :
    EncodingForm.Statement (.dopr nh sync ixm iym dxm dym rjm dsp f c) := ⟨rfl, rfl, rfl, rfl⟩
theorem EncodingForm.dlxa (v : BitVec 10) :
    EncodingForm.Statement (.dlxa v) := ⟨rfl, rfl, rfl, rfl⟩
theorem EncodingForm.dlya (v : BitVec 10) :
    EncodingForm.Statement (.dlya v) := ⟨rfl, rfl, rfl, rfl⟩
theorem EncodingForm.deim (b : BitVec 8) :
    EncodingForm.Statement (.deim b) := ⟨rfl, rfl, rfl, rfl⟩
theorem EncodingForm.dlvh (hint : BitVec 12) :
    EncodingForm.Statement (.dlvh hint) := ⟨rfl, rfl, rfl, rfl⟩
theorem EncodingForm.djms (a : BitVec 12) :
    EncodingForm.Statement (.djms a) := ⟨rfl, rfl, rfl, rfl⟩
theorem EncodingForm.djmp (a : BitVec 12) :
    EncodingForm.Statement (.djmp a) := ⟨rfl, rfl, rfl, rfl⟩
theorem EncodingForm.sgr1 (beam ret enter : Bool) :
    EncodingForm.Statement (.sgr1 beam ret enter) := ⟨rfl, rfl, rfl, rfl⟩
theorem EncodingForm.unassignedDisplay (w : Word) :
    EncodingForm.Statement (.unassignedDisplay w) := ⟨rfl, rfl, rfl, rfl⟩
theorem EncodingForm.dhlt :
    EncodingForm.Statement .dhlt := ⟨rfl, rfl, rfl, rfl⟩
theorem EncodingForm.dnop :
    EncodingForm.Statement .dnop := ⟨rfl, rfl, rfl, rfl⟩
theorem EncodingForm.dhvc :
    EncodingForm.Statement .dhvc := ⟨rfl, rfl, rfl, rfl⟩
theorem EncodingForm.dixm :
    EncodingForm.Statement .dixm := ⟨rfl, rfl, rfl, rfl⟩
theorem EncodingForm.diym :
    EncodingForm.Statement .diym := ⟨rfl, rfl, rfl, rfl⟩
theorem EncodingForm.ddxm :
    EncodingForm.Statement .ddxm := ⟨rfl, rfl, rfl, rfl⟩
theorem EncodingForm.ddym :
    EncodingForm.Statement .ddym := ⟨rfl, rfl, rfl, rfl⟩
theorem EncodingForm.drjm :
    EncodingForm.Statement .drjm := ⟨rfl, rfl, rfl, rfl⟩
theorem EncodingForm.ddsp :
    EncodingForm.Statement .ddsp := ⟨rfl, rfl, rfl, rfl⟩
theorem EncodingForm.dsts (c : BitVec 2) :
    EncodingForm.Statement (.dsts c) := ⟨rfl, rfl, rfl, rfl⟩
theorem EncodingForm.dstb (c : BitVec 2) :
    EncodingForm.Statement (.dstb c) := ⟨rfl, rfl, rfl, rfl⟩
theorem EncodingForm.dlpn (c : BitVec 2) :
    EncodingForm.Statement (.dlpn c) := ⟨rfl, rfl, rfl, rfl⟩
theorem EncodingForm.incVec (beam xneg : Bool) (xmag : BitVec 2) (yneg : Bool) (ymag : BitVec 2) :
    EncodingForm.Statement (.incVec beam xneg xmag yneg ymag) := ⟨rfl, rfl, rfl, rfl⟩
theorem EncodingForm.incCtl (esc rjm ixm zxl iym zyl : Bool) :
    EncodingForm.Statement (.incCtl esc rjm ixm zxl iym zyl) := ⟨rfl, rfl, rfl, rfl⟩

end Sys2Proof.Laws
end

