-- ==== Sys2Proof/Machine/Disasm.lean ====
section
/-! DEFINITION. The disassembler (spec 30_encoding.md R104 to R106, 20_memory.md R67): a pure function
of a word, the address it comes from and its usage tag. Beside it, the source line of a display
instruction, which for a long vector has three words (R104). Neither is part of a step. -/

namespace Sys2Proof.Machine

/-- One hexadecimal digit. -/
def hexDigit (n : Nat) : Char :=
  "0123456789ABCDEF".toList.getD (n % 16) '0'

/-- The digits of a number, least significant last. -/
def hexDigits : Nat → Nat → List Char
  | 0, _ => []
  | k + 1, n => hexDigits k (n / 16) ++ [hexDigit n]

/-- A number as R104 writes it, with `k` digits. -/
def hex (k n : Nat) : String := "0x" ++ String.ofList (hexDigits k n)

/-- An order with a memory operand (R104): the address is the full one, formed from the page of the
originating address (R106). -/
def orderText (name : String) (ind : Bool) (target : Word) : String :=
  name ++ (if ind then " I " else " ") ++ hex 4 target.toNat

/-- A class 2 instruction (R104); the display-on flag has no syntax there and is written after the
count (DESIGN CHOICE, notes/assumptions 21). -/
def shiftText (name : String) (on : Bool) (cnt : BitVec 2) : String :=
  name ++ " " ++ hex 1 cnt.toNat ++ (if on then " DON" else "")

/-- The text of a decoded instruction (R104, R105): `target` is the address that a page operand names
from where the instruction stands. R104 does not say what `bits` is in `OPR bits`, `SKP bits` and
`DOPR bits`: DESIGN CHOICE (notes/assumptions 21), the whole 16-bit word with its ignored bits 0 for OPR
and SKP, the twelve data bits for DOPR. A word without a decoding is written as its number (the same
entry). The data words of a long vector are words of their own (`displaySource` writes them). -/
def instrText (target : BitVec 11 → Word) : Instr → String
  | .opr nh b5 b4 b3 b2 b1 b0 => "OPR " ++ hex 4 (encodeOpr nh b5 b4 b3 b2 b1 b0).toNat
  | .ral on cnt => shiftText "RAL" on cnt
  | .rar on cnt => shiftText "RAR" on cnt
  | .sal on cnt => shiftText "SAL" on cnt
  | .sar on cnt => shiftText "SAR" on cnt
  | .skp neg cond => "SKP " ++ hex 4 (encodeSkp neg cond).toNat
  | .iot code => "IOT " ++ hex 3 code.toNat
  | .law imm => "LAW " ++ hex 3 imm.toNat
  | .lwc imm => "LWC " ++ hex 3 imm.toNat
  | .jmp ind d => orderText "JMP" ind (target d)
  | .dac ind d => orderText "DAC" ind (target d)
  | .xam ind d => orderText "XAM" ind (target d)
  | .isz ind d => orderText "ISZ" ind (target d)
  | .jms ind d => orderText "JMS" ind (target d)
  | .and ind d => orderText "AND" ind (target d)
  | .ior ind d => orderText "IOR" ind (target d)
  | .xor ind d => orderText "XOR" ind (target d)
  | .lac ind d => orderText "LAC" ind (target d)
  | .add ind d => orderText "ADD" ind (target d)
  | .sub ind d => orderText "SUB" ind (target d)
  | .sam ind d => orderText "SAM" ind (target d)
  | .unassignedIot w | .unassignedShift w | .unassignedOrder3 w | .unassignedOrder8 w
  | .unassignedDisplay w => hex 4 w.toNat
  | .hlt => "HLT"
  | .nop => "NOP"
  | .cla => "CLA"
  | .cma => "CMA"
  | .sta => "STA"
  | .iac => "IAC"
  | .coa => "COA"
  | .cia => "CIA"
  | .cll => "CLL"
  | .cal => "CAL"
  | .cml => "CML"
  | .stl => "STL"
  | .oda => "ODA"
  | .lda => "LDA"
  | .don => "DON"
  | .asz => "ASZ"
  | .asn => "ASN"
  | .asp => "ASP"
  | .asm => "ASM"
  | .lsz => "LSZ"
  | .lsn => "LSN"
  | .dsf => "DSF"
  | .dsn => "DSN"
  | .ksf => "KSF"
  | .ksn => "KSN"
  | .rsf => "RSF"
  | .rsn => "RSN"
  | .tsf => "TSF"
  | .tsn => "TSN"
  | .ssf => "SSF"
  | .ssn => "SSN"
  | .hsf => "HSF"
  | .hsn => "HSN"
  | .dla => "DLA"
  | .dof => "DOF"
  | .scf => "SCF"
  | .drs => "DRS"
  | .dopr nh sync ixm iym dxm dym rjm dsp f c =>
      "DOPR " ++ hex 3 (encodeDopr nh sync ixm iym dxm dym rjm dsp f c).toNat
  | .dlxa v => "DLXA " ++ hex 3 v.toNat
  | .dlya v => "DLYA " ++ hex 3 v.toNat
  | .deim b => "DEIM " ++ hex 2 b.toNat
  | .dlvh _ => "DLVH"
  | .djms a => "DJMS " ++ hex 3 a.toNat
  | .djmp a => "DJMP " ++ hex 3 a.toNat
  | .sgr1 beam ret enter =>
      "SGR1 " ++ hex 1 (beam.toNat * 4 + ret.toNat * 2 + enter.toNat)
  | .dhlt => "DHLT"
  | .dnop => "DNOP"
  | .dhvc => "DHVC"
  | .dixm => "DIXM"
  | .diym => "DIYM"
  | .ddxm => "DDXM"
  | .ddym => "DDYM"
  | .drjm => "DRJM"
  | .ddsp => "DDSP"
  | .dsts c => "DSTS " ++ hex 1 c.toNat
  | .dstb c => "DSTB " ++ hex 1 c.toNat
  | .dlpn c => "DLPN " ++ hex 1 c.toNat
  | .incVec beam xneg xmag yneg ymag => hex 2 (encodeHalf (.incVec beam xneg xmag yneg ymag)).toNat
  | .incCtl esc rjm ixm zxl iym zyl => hex 2 (encodeHalf (.incCtl esc rjm ixm zxl iym zyl)).toNat

/-- The address that a page operand names in an instruction at `origin` (R106, R124). -/
def targetFrom (p : Params) (origin : Word) (d : BitVec 11) : Word :=
  ((origin &&& ~~~pageOffsetMask) ||| d.zeroExtend 16) &&& maskA p

/-- The disassembly of a Main word (R67): of the word and its address alone. -/
def mainWordText (p : Params) (w origin : Word) : String :=
  instrText (targetFrom p origin) (decodeMainWord w)

/-- The disassembly of a Display word (R67): of the word, its address and its tag alone. It is written
as two halves where the tag says Increment, else, and also where no tag says how it was used, as
Processor mode decodes it (R106). -/
def displayWordText (p : Params) (w origin : Word) : Option DisplayMode → String
  | some .increment =>
      "INC " ++ hex 2 (w.extractLsb' 8 8).toNat ++ "," ++ hex 2 (w.extractLsb' 0 8).toNat
  | some .processor | none => instrText (targetFrom p origin) (decodeDisplayWord p.dblockBits w)

/-- A word of memory as a Main instruction; no cache is read or written (R67). -/
def disassembleMain (s : State) (addr : Word) : String :=
  mainWordText s.params (memRead s addr) (s.mask addr)

/-- A word of memory as a Display instruction; no cache is read or written (R67). -/
def disassembleDisplay (s : State) (addr : Word) : String :=
  displayWordText s.params (memRead s addr) (s.mask addr) (lookup (s.mask addr).toNat s.usage)

/-- The source line of a Processor-mode instruction (R104), from its word and the two words after it:
the text of its word, and `DLVH` followed by its two data words. (A comma between them: DESIGN CHOICE,
notes/assumptions 21.) -/
def displaySource (p : Params) (w w1 w2 origin : Word) : String :=
  displayWordText p w origin (some .processor)
    ++ (if w.extractLsb' 12 3 = 4 then " " ++ hex 4 w1.toNat ++ "," ++ hex 4 w2.toNat else "")

end Sys2Proof.Machine
end

