-- ==== Sys2Proof/Tests/Slice0.lean ====
section
/-! SUPPORT. Tests: ill-formed terms that the checks refuse, a word written out bit by bit for every
constructor, one step of every instruction on the spec's own vectors (95_test_vectors.md), and for
every statement with hypotheses concrete terms that meet them. -/

namespace Sys2Proof.Tests

open Sys2Proof Sys2Proof.Machine

/-! ## WellFormed -/

theorem test_wf_refuses_named_opr :
    (Instr.opr true false false false true false true).wf 11 = false := by decide
theorem test_wf_refuses_named_ral : (Instr.ral true 0).wf 11 = false := by decide
theorem test_wf_refuses_named_skp : (Instr.skp true 0x100).wf 11 = false := by decide
theorem test_wf_refuses_named_iot : (Instr.iot 0x0C4).wf 11 = false := by decide
theorem test_wf_refuses_named_dopr :
    (Instr.dopr true false true false false false false false 0 0).wf 11 = false := by decide
theorem test_wf_refuses_named_dopr_function :
    (Instr.dopr true false false false false false false false 1 2).wf 11 = false := by decide
theorem test_wf_refuses_assigned_iot_word : (Instr.unassignedIot 0x0203).wf 11 = false := by decide
theorem test_wf_refuses_assigned_shift_word : (Instr.unassignedShift 0x0600).wf 11 = false := by decide
theorem test_wf_refuses_assigned_order3_word :
    (Instr.unassignedOrder3 0x2000).wf 11 = false := by decide
theorem test_wf_refuses_assigned_order8_word :
    (Instr.unassignedOrder8 0x4800).wf 11 = false := by decide
theorem test_wf_refuses_sgr1_word : (Instr.unassignedDisplay 0x7FC8).wf 11 = false := by decide
theorem test_wf_refuses_djmp_word : (Instr.unassignedDisplay 0x6000).wf 11 = false := by decide

theorem test_wf_refuses_wide_branch :
    (Instr.djms 0x800).wf 11 = false ∧ (Instr.djmp 0x800).wf 11 = false
    ∧ (Instr.djms 0x800).wf 12 = true := by decide

theorem test_config_default_is_wf : Params.default.wf = true := by decide
theorem test_config_refuses_short_address :
    { Params.default with addrBits := 10 }.wf = false := by decide
theorem test_config_refuses_long_address :
    { Params.default with addrBits := 17 }.wf = false := by decide
theorem test_config_refuses_wide_block :
    { Params.default with dblockBits := 13 }.wf = false := by decide
theorem test_config_refuses_wide_magnitude :
    { Params.default with lvMagBits := 13 }.wf = false := by decide
theorem test_config_refuses_missing_display_code :
    { Params.default with registry := [] }.wf = false := by decide
theorem test_config_refuses_two_owners :
    { Params.default with
      registry := (0x003, .external 1) :: Params.default.registry }.wf = false := by decide
theorem test_config_refuses_misrouted_code :
    { Params.default with
      registry := (0x031, .display) :: Params.default.registry }.wf = false := by decide

/-! ## Decoding, each word written out from the formats of 30_encoding.md -/

theorem test_decode_opr :
    decodeMainWord 0b0000000_000_000001 = .opr false false false false false false true
    ∧ decodeMainWord 0b1000000_000_100101 = .opr true true false false true false true
    ∧ decodeMainWord 0b1000000_111_010010 = .opr true false true false false true false := by decide
theorem test_decode_named_opr :
    decodeMainWord 0b0000000_000_000000 = .hlt ∧ decodeMainWord 0b1000000_000_000000 = .nop
    ∧ decodeMainWord 0b1000000_000_000001 = .cla ∧ decodeMainWord 0b1000000_000_000010 = .cma
    ∧ decodeMainWord 0b1000000_000_000011 = .sta ∧ decodeMainWord 0b1000000_000_000100 = .iac
    ∧ decodeMainWord 0b1000000_000_000101 = .coa ∧ decodeMainWord 0b1000000_000_000110 = .cia
    ∧ decodeMainWord 0b1000000_000_001000 = .cll ∧ decodeMainWord 0b1000000_000_001001 = .cal
    ∧ decodeMainWord 0b1000000_000_010000 = .cml ∧ decodeMainWord 0b1000000_000_011000 = .stl
    ∧ decodeMainWord 0b1000000_000_100000 = .oda ∧ decodeMainWord 0b1000000_000_100001 = .lda := by
  decide
theorem test_decode_shift :
    decodeMainWord 0b0000011_00_0_00_00_11 = .ral false 3
    ∧ decodeMainWord 0b0000011_00_1_01_00_10 = .rar true 2
    ∧ decodeMainWord 0b0000011_11_0_10_11_01 = .sal false 1
    ∧ decodeMainWord 0b0000011_11_1_11_11_11 = .sar true 3
    ∧ decodeMainWord 0b0000011_00_1_00_00_00 = .don := by decide
theorem test_decode_skp :
    decodeMainWord 0b0_000010_000000000 = .skp false 0
    ∧ decodeMainWord 0b1_000010_000000101 = .skp true 5
    ∧ decodeMainWord 0b0_000010_111111111 = .skp false 0x1FF := by decide
theorem test_decode_named_skp :
    decodeMainWord 0b0_000010_000000001 = .asz ∧ decodeMainWord 0b1_000010_000000001 = .asn
    ∧ decodeMainWord 0b0_000010_000000010 = .asp ∧ decodeMainWord 0b1_000010_000000010 = .asm
    ∧ decodeMainWord 0b0_000010_000000100 = .lsz ∧ decodeMainWord 0b1_000010_000000100 = .lsn
    ∧ decodeMainWord 0b0_000010_000001000 = .dsf ∧ decodeMainWord 0b1_000010_000001000 = .dsn
    ∧ decodeMainWord 0b0_000010_000010000 = .ksf ∧ decodeMainWord 0b1_000010_000010000 = .ksn
    ∧ decodeMainWord 0b0_000010_000100000 = .rsf ∧ decodeMainWord 0b1_000010_000100000 = .rsn
    ∧ decodeMainWord 0b0_000010_001000000 = .tsf ∧ decodeMainWord 0b1_000010_001000000 = .tsn
    ∧ decodeMainWord 0b0_000010_010000000 = .ssf ∧ decodeMainWord 0b1_000010_010000000 = .ssn
    ∧ decodeMainWord 0b0_000010_100000000 = .hsf ∧ decodeMainWord 0b1_000010_100000000 = .hsn := by
  decide
theorem test_decode_iot :
    decodeMainWord 0b0000001_000110_001 = .iot 0x031
    ∧ decodeMainWord 0b0000001_111111_111 = .iot 0x1FF
    ∧ decodeMainWord 0b0000001_000000_011 = .dla ∧ decodeMainWord 0b0000001_000001_010 = .dof
    ∧ decodeMainWord 0b0000001_000111_001 = .scf ∧ decodeMainWord 0b0000001_011000_100 = .drs := by
  decide
theorem test_decode_orders :
    decodeMainWord 0b00001_11111111111 = .law 0x7FF ∧ decodeMainWord 0b10001_00000000011 = .lwc 3
    ∧ decodeMainWord 0b1_0010_00101010000 = .jmp true 0x150
    ∧ decodeMainWord 0b0_0100_00101010000 = .dac false 0x150
    ∧ decodeMainWord 0b0_0101_00101010000 = .xam false 0x150
    ∧ decodeMainWord 0b1_0110_00000001001 = .isz true 0x009
    ∧ decodeMainWord 0b0_0111_01000010000 = .jms false 0x210
    ∧ decodeMainWord 0b0_1001_00101010000 = .and false 0x150
    ∧ decodeMainWord 0b0_1010_00101010000 = .ior false 0x150
    ∧ decodeMainWord 0b0_1011_00101010000 = .xor false 0x150
    ∧ decodeMainWord 0b1_1100_00000001010 = .lac true 0x00A
    ∧ decodeMainWord 0b0_1101_00101010000 = .add false 0x150
    ∧ decodeMainWord 0b0_1110_00101010000 = .sub false 0x150
    ∧ decodeMainWord 0b1_1111_11111111111 = .sam true 0x7FF := by decide
theorem test_decode_unassigned_main :
    decodeMainWord 0x8200 = .unassignedIot 0x8200 ∧ decodeMainWord 0x83FF = .unassignedIot 0x83FF
    ∧ decodeMainWord 0x8600 = .unassignedShift 0x8600
    ∧ decodeMainWord 0x87FF = .unassignedShift 0x87FF
    ∧ decodeMainWord 0x1800 = .unassignedOrder3 0x1800
    ∧ decodeMainWord 0x9FFF = .unassignedOrder3 0x9FFF
    ∧ decodeMainWord 0x4000 = .unassignedOrder8 0x4000
    ∧ decodeMainWord 0xC7FF = .unassignedOrder8 0xC7FF := by decide
theorem test_decode_dopr :
    decodeDisplayWord 11 0b0_000_1_0_1_0_0_0_0_1_00_00 =
      .dopr true false true false false false false true 0 0
    ∧ decodeDisplayWord 11 0b0_000_0_0_0_0_0_0_1_0_00_00 =
      .dopr false false false false false false true false 0 0
    ∧ decodeDisplayWord 11 0b0_000_1_0_0_0_0_0_1_0_10_00 =
      .dopr true false false false false false true false 2 0 := by decide
theorem test_decode_named_dopr :
    decodeDisplayWord 11 0b1_000_000000000000 = .dhlt ∧ decodeDisplayWord 11 0b0_000_100000000000 = .dnop
    ∧ decodeDisplayWord 11 0b0_000_110000000000 = .dhvc
    ∧ decodeDisplayWord 11 0b0_000_101000000000 = .dixm
    ∧ decodeDisplayWord 11 0b0_000_100100000000 = .diym
    ∧ decodeDisplayWord 11 0b0_000_100010000000 = .ddxm
    ∧ decodeDisplayWord 11 0b0_000_100001000000 = .ddym
    ∧ decodeDisplayWord 11 0b0_000_100000100000 = .drjm
    ∧ decodeDisplayWord 11 0b0_000_100000010000 = .ddsp
    ∧ decodeDisplayWord 11 0b0_000_10000000_01_10 = .dsts 2
    ∧ decodeDisplayWord 11 0b0_000_10000000_10_11 = .dstb 3
    ∧ decodeDisplayWord 11 0b0_000_10000000_11_01 = .dlpn 1 := by decide
theorem test_decode_display :
    decodeDisplayWord 11 0b1_001_11_0100000000 = .dlxa 0x100
    ∧ decodeDisplayWord 11 0b0_010_00_0010000000 = .dlya 0x080
    ∧ decodeDisplayWord 11 0b0_011_1111_00000000 = .deim 0x00
    ∧ decodeDisplayWord 11 0b0_100_101010111100 = .dlvh 0xABC
    ∧ decodeDisplayWord 11 0b0_101_001100010000 = .djms 0x310
    ∧ decodeDisplayWord 11 0b0_110_000000010000 = .djmp 0x010
    ∧ decodeDisplayWord 11 0b0_111_111111001_101 = .sgr1 true false true := by decide
/-- Bit 11 of a branch word is ignored with DBLOCK_BITS 11, kept with 12 (R92, R97). -/
theorem test_decode_branch_field :
    decodeDisplayWord 11 0b0_101_111111111111 = .djms 0x7FF
    ∧ displayRecord (decodeDisplayWord 11 0b1_110_100000000001) = some ⟨.djmp, 0x001⟩
    ∧ decodeDisplayWord 12 0b0_101_111111111111 = .djms 0xFFF := by decide
theorem test_decode_unassigned_display :
    decodeDisplayWord 11 0x7000 = .unassignedDisplay 0x7000
    ∧ decodeDisplayWord 11 0x7FC7 = .unassignedDisplay 0x7FC7
    ∧ decodeDisplayWord 11 0xFFD0 = .unassignedDisplay 0xFFD0 := by decide
theorem test_decode_halves :
    decodeHalf 0b1_1_1_01_0_10 = .incVec true true 1 false 2
    ∧ decodeHalf 0b1_0_1_11_1_00 = .incVec false true 3 true 0
    ∧ decodeHalf 0b0_1_1_0_0_0_0_1 = .incCtl true true false false false false
    ∧ decodeHalf 0b0_0_0_1_1_1_0_0 = .incCtl false false true true true false
    ∧ decodeHalf 0b0_0_0_0_0_0_1_0 = .incCtl false false false false false true := by decide
theorem test_decode_rejects_one_byte : decode 11 .main [0x80] = .error .truncated := rfl
theorem test_decode_table_word :
    decodeTableWord 16 0x8005 = some .coa ∧ decodeTableWord 8 0xEA = some (.incVec true true 1 false 2)
    ∧ decodeTableWord 48 0x4000 = some (.dlvh 0) ∧ decodeTableWord 32 0 = none := by decide
theorem test_encode_bytes :
    encode .coa = [0x80, 0x05] ∧ encode (.isz true 9) = [0xB0, 0x09]
    ∧ encode (.incVec true true 1 false 2) = [0xEA] := by decide

/-! ## Helpers of the one-step tests -/

/-- Memory holding the given words. -/
def words (ws : List (Nat × Word)) : List Host.Cell :=
  ws.foldl (fun m e => writeWord m e.1 e.2) []

/-- Stored words are listed whole. -/
theorem wholeWords_words (ws : List (Nat × Word)) : wholeWords (words ws) := by
  suffices h : ∀ m, wholeWords m →
      wholeWords (ws.foldl (fun m e => writeWord m e.1 e.2) m) from h [] wholeWords_nil
  induction ws with
  | nil => exact fun m h => h
  | cons e rest ih => exact fun m h => ih _ (wholeWords_writeWord m e.1 e.2 h)

/-- The Main Processor Running at 0x0100, in the given transition. -/
def mainState (fsm : Fsm) (ac : Word) (l : Bool) (ws : List (Nat × Word)) : State :=
  { State.reset with
    main :=
      { MainRegs.reset with pc := 0x0100, ac := ac, l := l, mstate := .running, fsm := fsm }
    mem := words ws }

/-- The Display Processor Running at 0x0300 in Processor mode. -/
def dispState (x y : Dac) (scale : Nat) (stack : List Word) (ws : List (Nat × Word)) : State :=
  { State.reset with
    disp := { DispRegs.reset with
      dpc := 0x0300, x := x, y := y, scale := scale, dstack := stack, dstate := .running }
    mem := words ws }

/-- The Display Processor in Increment mode at 0x0310, with 0xBEEF in the next word. -/
def halfState (half : Half) (x y : Dac) (scale : Nat) (stack : List Word) : State :=
  { State.reset with
    disp := { DispRegs.reset with
      dpc := 0x0310, x := x, y := y, scale := scale, dstack := stack, dstate := .running
      dmode := .increment, half := half }
    mem := words [(0x0311, 0xBEEF)] }

/-- What a result's next state holds. -/
def after {α : Type} (r : Result) (f : State → α) : Option α :=
  match r with
  | .next t => some (f t)
  | .fault _ => none
  | .refused _ => none

def acLink (t : State) : Word × Bool := (t.main.ac, t.main.l)
def position (t : State) : Dac × Dac := (t.disp.x, t.disp.y)

/-- The breakpoints of a state. -/
def withBreakpoints (ps : List Breakpoint) (s : State) : State :=
  { s with inputs := { s.inputs with breakpoints := ps } }

/-- The readiness inputs and the frame latch of a state. -/
def withInputs (kbd tti tto ptr latch : Bool) (s : State) : State :=
  { s with inputs := { s.inputs with ready := ⟨kbd, tti, tto, ptr⟩ }
           disp := { s.disp with frameLatch := latch } }

/-! ## One step of the Main Processor's instructions (95_test_vectors.md 2.2 to 2.8) -/

theorem test_law : after (exec (.law 0x7FF) (mainState .execute 0xFFFF true [])) acLink =
    some (0x07FF, true) := by decide
theorem test_lwc : after (exec (.lwc 0x7FF) (mainState .execute 0 true [])) acLink =
    some (0xF801, true) := by decide
theorem test_lwc_zero : after (exec (.lwc 0) (mainState .execute 0x1234 true [])) acLink =
    some (0, true) := by decide
theorem test_jmp_page :
    after (exec (.jmp false 3)
      { mainState .execute 0 false [] with
        main := { (mainState .execute 0 false []).main with pc := 0x0905 } })
      (fun t => t.main.pc) = some 0x0803 := by decide
theorem test_dac : after (exec (.dac false 0x150) (mainState .execute 0xBEEF true []))
    (fun t => (memRead t 0x150, t.main.pc)) = some (0xBEEF, 0x0101) := by decide
theorem test_xam : after (exec (.xam false 0x150) (mainState .execute 0x00FF false [(0x150, 0xAB00)]))
    (fun t => (t.main.ac, memRead t 0x150)) = some (0xAB00, 0x00FF) := by decide
theorem test_isz_wraps : after (exec (.isz false 0x150) (mainState .execute 7 false [(0x150, 0xFFFF)]))
    (fun t => (memRead t 0x150, t.main.pc)) = some (0, 0x0102) := by decide
theorem test_isz_sign : after (exec (.isz false 0x150) (mainState .execute 7 false [(0x150, 0x7FFF)]))
    (fun t => (memRead t 0x150, t.main.pc)) = some (0x8000, 0x0101) := by decide
theorem test_jms_top :
    after (exec (.jms false 0x010)
      { mainState .execute 0 false [(0x1810, 0x5555)] with
        main := { (mainState .execute 0 false []).main with pc := 0x1FFF } })
      (fun t => (memRead t 0x1810, t.main.pc)) = some (0, 0x1811) := by decide
theorem test_and : after (exec (.and false 0x150) (mainState .execute 0xF0F0 true [(0x150, 0xFF00)]))
    acLink = some (0xF000, true) := by decide
theorem test_ior : after (exec (.ior false 0x150) (mainState .execute 0xF0F0 true [(0x150, 0xFF00)]))
    acLink = some (0xFFF0, true) := by decide
theorem test_xor : after (exec (.xor false 0x150) (mainState .execute 0xF0F0 true [(0x150, 0xFF00)]))
    acLink = some (0x0FF0, true) := by decide
theorem test_lac : after (exec (.lac false 0x150) (mainState .execute 0 true [(0x150, 0xBEEF)]))
    acLink = some (0xBEEF, true) := by decide
theorem test_add_carry : after (exec (.add false 0x150) (mainState .execute 0xFFFF true [(0x150, 1)]))
    acLink = some (0, false) := by decide
theorem test_add_overflow :
    after (exec (.add false 0x150) (mainState .execute 0x7FFF false [(0x150, 1)]))
    acLink = some (0x8000, false) := by decide
theorem test_sub_borrow : after (exec (.sub false 0x150) (mainState .execute 5 false [(0x150, 7)]))
    acLink = some (0xFFFE, true) := by decide
theorem test_sub_equal :
    after (exec (.sub false 0x150) (mainState .execute 0x1234 true [(0x150, 0x1234)]))
    acLink = some (0, true) := by decide
theorem test_sam : after (exec (.sam false 0x150) (mainState .execute 0x1234 true [(0x150, 0x1234)]))
    (fun t => t.main.pc) = some 0x0102 := by decide
theorem test_defer_wraps_index_cell :
    after (exec (.lac true 0x00F) (mainState .defer 0 false [(0x00F, 0xFFFF)]))
    (fun t => (memRead t 0x00F, t.main.ea)) = some (0, 0) := by decide
theorem test_defer_below_index_cells :
    after (exec (.lac true 0x007) (mainState .defer 0 false [(0x007, 0x0300)]))
    (fun t => (memRead t 0x007, t.main.ea)) = some (0x0300, 0x0300) := by decide

theorem test_opr_phases :
    after (exec (.opr true true true true true true true)
      { mainState .fetch 0x1234 false [] with
        main := { (mainState .fetch 0x1234 false []).main with ds := 0x00F0 } }) acLink =
    some (0x00F0, false) := by decide
theorem test_opr_clears_then_halts :
    after (exec (.opr false false false false false false true) (mainState .fetch 0x1234 false []))
    (fun t => (t.main.ac, t.main.mstate)) = some (0, .halted) := by decide
theorem test_hlt : after (exec .hlt (mainState .fetch 0x1234 true []))
    (fun t => (t.main.mstate, t.main.pc)) = some (.halted, 0x0101) := by decide
theorem test_nop : after (exec .nop (mainState .fetch 0x1234 true []))
    (fun t => (acLink t, t.main.pc)) = some ((0x1234, true), 0x0101) := by decide
theorem test_cla : after (exec .cla (mainState .fetch 0x1234 true [])) acLink =
    some (0, true) := by decide
theorem test_cma : after (exec .cma (mainState .fetch 0x00FF true [])) acLink =
    some (0xFF00, true) := by decide
theorem test_sta : after (exec .sta (mainState .fetch 0x1234 false [])) acLink =
    some (0xFFFF, false) := by decide
theorem test_iac_wraps : after (exec .iac (mainState .fetch 0xFFFF false [])) acLink =
    some (0, true) := by decide
theorem test_coa : after (exec .coa (mainState .fetch 0xFFFF false [])) acLink =
    some (1, false) := by decide
theorem test_cia_zero : after (exec .cia (mainState .fetch 0 false [])) acLink =
    some (0, true) := by decide
theorem test_cia : after (exec .cia (mainState .fetch 3 false [])) acLink =
    some (0xFFFD, false) := by decide
theorem test_cll : after (exec .cll (mainState .fetch 5 true [])) acLink =
    some (5, false) := by decide
theorem test_cal : after (exec .cal (mainState .fetch 5 true [])) acLink =
    some (0, false) := by decide
theorem test_cml : after (exec .cml (mainState .fetch 5 false [])) acLink =
    some (5, true) := by decide
theorem test_stl : after (exec .stl (mainState .fetch 5 false [])) acLink =
    some (5, true) := by decide
theorem test_oda :
    after (exec .oda
      { mainState .fetch 0x0F00 false [] with
        main := { (mainState .fetch 0x0F00 false []).main with ds := 0x00F0 } }) acLink =
    some (0x0FF0, false) := by decide
theorem test_lda_polls_switches :
    after (step
      { (mainState .fetch 0x1234 true []).withFetchWord 16 0x8021 with
        inputs := { State.reset.inputs with switches := 0xA5A5, mapping := true } })
      (fun t => (t.main.ac, t.main.ds)) = some (0xA5A5, 0xA5A5) := by decide

theorem test_ral : after (exec (.ral false 3) (mainState .fetch 0x8001 false [])) acLink =
    some (0x000A, false) := by decide
theorem test_ral_with_don : after (exec (.ral true 1) (mainState .fetch 0x8001 false []))
    (fun t => (acLink t, t.disp.dstate)) = some ((0x0002, true), .running) := by decide
theorem test_rar : after (exec (.rar false 3) (mainState .fetch 0x8001 true [])) acLink =
    some (0x7000, false) := by decide
theorem test_sal : after (exec (.sal false 3) (mainState .fetch 0x9234 true [])) acLink =
    some (0x91A0, true) := by decide
theorem test_sar : after (exec (.sar false 2) (mainState .fetch 0x8004 true [])) acLink =
    some (0xE001, true) := by decide
theorem test_don_keeps_breakpoint_halt :
    after (exec .don
      { mainState .fetch 0 false [] with
        disp := { DispRegs.reset with dstate := .breakpointHalt } })
      (fun t => t.disp.dstate) = some .breakpointHalt := by decide

theorem test_skp_highest_decides :
    after (exec (.skp false 0x005) (mainState .fetch 0 true [])) (fun t => t.main.pc) =
    some 0x0101 := by decide
theorem test_skp_always : after (exec (.skp true 0) (mainState .fetch 0 true []))
    (fun t => t.main.pc) = some 0x0102 := by decide
theorem test_asz : after (exec .asz (mainState .fetch 0 false [])) (fun t => t.main.pc) =
    some 0x0102 := by decide
theorem test_asn : after (exec .asn (mainState .fetch 0 false [])) (fun t => t.main.pc) =
    some 0x0101 := by decide
theorem test_asp : after (exec .asp (mainState .fetch 0x7FFF false [])) (fun t => t.main.pc) =
    some 0x0102 := by decide
theorem test_asm : after (exec .asm (mainState .fetch 0x8000 false [])) (fun t => t.main.pc) =
    some 0x0102 := by decide
theorem test_lsz : after (exec .lsz (mainState .fetch 0 true [])) (fun t => t.main.pc) =
    some 0x0101 := by decide
theorem test_lsn : after (exec .lsn (mainState .fetch 0 true [])) (fun t => t.main.pc) =
    some 0x0102 := by decide
theorem test_dsf_halted : after (exec .dsf (mainState .fetch 0 true [])) (fun t => t.main.pc) =
    some 0x0101 := by decide
theorem test_dsn_halted : after (exec .dsn (mainState .fetch 0 true [])) (fun t => t.main.pc) =
    some 0x0102 := by decide
theorem test_ksf : after (exec .ksf (withInputs true false false false false
    (mainState .fetch 0 false []))) (fun t => t.main.pc) = some 0x0102 := by decide
theorem test_ksn : after (exec .ksn (withInputs true false false false false
    (mainState .fetch 0 false []))) (fun t => t.main.pc) = some 0x0101 := by decide
theorem test_rsf : after (exec .rsf (withInputs false true false false false
    (mainState .fetch 0 false []))) (fun t => t.main.pc) = some 0x0102 := by decide
theorem test_rsn : after (exec .rsn (withInputs false true false false false
    (mainState .fetch 0 false []))) (fun t => t.main.pc) = some 0x0101 := by decide
theorem test_tsf : after (exec .tsf (withInputs false false true false false
    (mainState .fetch 0 false []))) (fun t => t.main.pc) = some 0x0102 := by decide
theorem test_tsn : after (exec .tsn (withInputs false false true false false
    (mainState .fetch 0 false []))) (fun t => t.main.pc) = some 0x0101 := by decide
theorem test_ssf : after (exec .ssf (withInputs false false false false true
    (mainState .fetch 0 false []))) (fun t => (t.main.pc, t.disp.frameLatch)) =
    some (0x0102, true) := by decide
theorem test_ssn : after (exec .ssn (withInputs false false false false true
    (mainState .fetch 0 false []))) (fun t => t.main.pc) = some 0x0101 := by decide
theorem test_hsf : after (exec .hsf (withInputs false false false true false
    (mainState .fetch 0 false []))) (fun t => t.main.pc) = some 0x0102 := by decide
theorem test_hsn : after (exec .hsn (withInputs false false false true false
    (mainState .fetch 0 false []))) (fun t => t.main.pc) = some 0x0101 := by decide

theorem test_iot_unowned : after (exec (.iot 0x088) (mainState .fetch 0 false []))
    (fun t => (t.log, t.main.pc)) = some ([.unregisteredIot 0x088], 0x0101) := by decide
theorem test_dla : after (exec .dla (mainState .fetch 0xFFFF false []))
    (fun t => (t.disp.dpc, t.disp.block)) = some (0x1FFF, 3) := by decide
theorem test_dof :
    after (exec .dof
      { mainState .fetch 0 false [] with
        disp := { DispRegs.reset with dstate := .breakpointHalt } })
      (fun t => t.disp.dstate) = some .halted := by decide
theorem test_scf : after (exec .scf (withInputs false false false false true
    (mainState .fetch 0 false []))) (fun t => t.disp.frameLatch) = some false := by decide
theorem test_drs : after (exec .drs (mainState .fetch 0 false [])) (fun t => t.disp.dstate) =
    some .running := by decide

/-! ## One step of the Display Processor's instructions (95_test_vectors.md 2.9 to 2.13) -/

theorem test_dopr_moves :
    after (exec (.dopr true true true true true true false true 0 0) (dispState 0x100 0x100 1 [] []))
    (fun t => t.sink.drop 1) =
    some [.moveAbsolute 0x100 0x100 .off, .moveAbsolute 0x120 0x100 .off,
      .moveAbsolute 0x120 0x120 .off, .moveAbsolute 0x100 0x120 .off,
      .moveAbsolute 0x100 0x100 .off, .drawPoint 0x100 0x100] := by decide
theorem test_dopr_halts_and_returns :
    after (exec (.dopr false false false false false false true false 0 0)
      (dispState 0 0 1 [0x0123] [])) (fun t => (t.disp.dstate, t.disp.dpc)) =
    some (.halted, 0x0123) := by decide
theorem test_dhlt : after (exec .dhlt (dispState 0 0 1 [] []))
    (fun t => (t.disp.dstate, t.disp.dpc)) = some (.halted, 0x0301) := by decide
theorem test_dnop : after (exec .dnop (dispState 5 6 1 [] []))
    (fun t => (position t, t.disp.dpc)) = some ((5, 6), 0x0301) := by decide
theorem test_dhvc : after (exec .dhvc (dispState 5 6 1 [] [])) (fun t => t.sink.drop 1) =
    some [.moveAbsolute 5 6 .off] := by decide
theorem test_dixm : after (exec .dixm (dispState 0x7F0 0 1 [] [])) position =
    some (0x010, 0) := by decide
theorem test_diym : after (exec .diym (dispState 0 0x7E5 1 [] [])) position =
    some (0, 0x005) := by decide
theorem test_ddxm : after (exec .ddxm (dispState 0 0 1 [] [])) position =
    some (0x7E0, 0) := by decide
theorem test_ddym : after (exec .ddym (dispState 0 0x010 1 [] [])) position =
    some (0, 0x7F0) := by decide
theorem test_drjm : after (exec .drjm (dispState 0 0 1 [0x0456, 0x0123] []))
    (fun t => (t.disp.dpc, t.disp.dstack)) = some (0x0456, [0x0123]) := by decide
theorem test_drjm_empty : after (exec .drjm (dispState 0 0 1 [] []))
    (fun t => (t.disp.dpc, t.log)) = some (0x0301, [.displayStackUnderflow]) := by decide
theorem test_ddsp : after (exec .ddsp (dispState 0x3FF 0x400 1 [] [])) (fun t => t.sink.drop 1) =
    some [.drawPoint 0x3FF 0x400] := by decide
theorem test_dsts_zero : after (exec (.dsts 0) (dispState 0 0 3 [] [])) (fun t => t.disp.scale) =
    some 1 := by decide
theorem test_dsts : after (exec (.dsts 3) (dispState 0 0 1 [] [])) (fun t => t.disp.scale) =
    some 3 := by decide
theorem test_dstb : after (exec (.dstb 3) (dispState 0 0 1 [] [])) (fun t => t.disp.block) =
    some 3 := by decide
theorem test_dlpn : after (exec (.dlpn 3) (dispState 0 0 2 [] []))
    (fun t => (t.disp.scale, t.disp.block)) = some (2, 0) := by decide
theorem test_dlxa : after (exec (.dlxa 0x3FF) (dispState 0 3 1 [] [])) (fun t => t.sink.drop 1) =
    some [.moveAbsolute 0x7FE 0x003 .off] := by decide
theorem test_dlya_returns :
    after (exec (.dlya 1)
      { dispState 0 0 1 [0x0ABC] [] with
        disp := { (dispState 0 0 1 [0x0ABC] []).disp with sgrRet := true } })
      (fun t => (t.disp.y, t.disp.dpc)) = some (0x002, 0x0ABC) := by decide
theorem test_deim : after (exec (.deim 0xDB) (dispState 0 0 1 [] []))
    (fun t => (t.disp.immWord, t.disp.half)) = some (0x00DB, .second) := by decide
theorem test_dlvh_dotted :
    after (exec (.dlvh 0xABC) (dispState 0x100 0x100 2 [] [(0x301, 0x6003), (0x302, 0x7004)]))
    (fun t => t.sink.drop 1) = some [.moveAbsolute 0x0F0 0x0F4 .dotted] := by decide
theorem test_dlvh_wraps :
    after (exec (.dlvh 0) (dispState 0x100 0x100 3 [] [(0x301, 0x23FF), (0x302, 0x03FF)]))
    (fun t => (position t, t.disp.dpc)) = some ((0x0FA, 0x0FA), 0x0303) := by decide
theorem test_djms :
    after (step
      { dispState 0 0 1 [] [(0x302, 0x5FFF)] with
        disp := { (dispState 0 0 1 [] []).disp with dpc := 0x0302, block := 2 }
        agenda := [.dispStep] })
      (fun t => (t.disp.dstack, t.disp.dpc)) = some ([0x0303], 0x17FF) := by decide
theorem test_djmp :
    after (exec (.djmp 0x010)
      { dispState 0 0 1 [] [] with disp := { (dispState 0 0 1 [] []).disp with block := 1 } })
      (fun t => t.disp.dpc) = some 0x0810 := by decide
theorem test_sgr1 : after (exec (.sgr1 true false true) (dispState 0 0 1 [] []))
    (fun t => (t.disp.sgrEnter, t.disp.sgrRet, t.disp.sgrBeam)) = some (true, false, true) := by
  decide
theorem test_vector_half :
    after (exec (.incVec true true 1 false 2) (halfState .first 0x200 0x100 3 [])) position =
    some (0x1FA, 0x10C) := by decide
theorem test_vector_second_half_captures :
    after (exec (.incVec true false 3 false 3) (halfState .second 0x200 0x100 1 []))
    (fun t => (t.disp.immWord, t.disp.dpc)) = some (0xBEEF, 0x0311) := by decide
theorem test_control_half_one_event :
    after (exec (.incCtl false false true true true true) (halfState .first 0x7E5 0x01F 1 []))
    (fun t => t.sink.drop 1) = some [.moveAbsolute 0 0x020 .off] := by decide
theorem test_control_half_escapes :
    after (exec (.incCtl true true true false true true) (halfState .first 0x03F 0x03F 1 [0x0222]))
    (fun t => (position t, t.disp.dpc)) = some ((0x05F, 0x040), 0x0222) := by decide

/-! ## Whole steps: placement, fatal errors, breakpoints, the frame counter -/

theorem test_step_placed_word :
    after (step (State.reset.withFetchWord 16 0x8005)) (fun t => (t.main.ac, t.main.pc)) =
    some (1, 0x0021) := by decide
theorem test_step_placed_half :
    after (step (State.reset.withFetchWord 8 0xDB)) position = some (6, 6) := by decide
theorem test_step_placed_long_vector :
    after (step (State.reset.withFetchWord 48 0x0005200A4000)) position = some (20, 10) := by decide
theorem test_step_unassigned_word :
    step (State.reset.withFetchWord 16 0xC7FF) =
    .fault (.unimplementedInstruction 0xC7FF 0x0020) := rfl
theorem test_step_unassigned_display_word :
    step { dispState 0 0 1 [] [(0x300, 0x7FC7)] with agenda := [.dispStep] } =
    .fault (.unimplementedInstruction 0x7FC7 0x0300) := rfl
theorem test_read_breakpoint_then_execution :
    after (exec (.lac false 0x150)
      (withBreakpoints [⟨.read, 0x150⟩, ⟨.execution, 0x101⟩]
        (mainState .execute 0 false [(0x150, 0xBEEF)])))
      (fun t => (t.main.mstate, t.main.bpAddr)) = some (.breakpointHalt, 0x0101) := by decide
theorem test_halt_skips_execution_breakpoint :
    after (exec .hlt (withBreakpoints [⟨.execution, 0x101⟩] (mainState .fetch 0 false [])))
      (fun t => (t.main.mstate, t.main.bpAddr)) = some (.halted, 0) := by decide
theorem test_display_breakpoint :
    after (step
      { withBreakpoints [⟨.display, 0x301⟩] (dispState 0 0 1 [] [(0x300, 0x0800)]) with
        agenda := [.dispStep] })
      (fun t => (t.disp.dstate, t.disp.bpAddr)) = some (.breakpointHalt, 0x0301) := by decide
theorem test_frame_crossing :
    after (step
      { State.reset with
        params := { Params.default with frameCycles := 3 }
        disp := { DispRegs.reset with frameCnt := 3 }
        agenda := [.dispStep] })
      (fun t => (t.disp.frameCnt, t.disp.frameLatch)) = some (0, true) := by decide
theorem test_deposit_frame_count_above_range :
    step { State.reset with agenda := [.depositFrameCount 13890] } = .refused .depositOutOfRange := rfl
theorem test_deposit_frame_latch :
    after (step { State.reset with agenda := [.depositDisplay .frameLatch 0x0003] })
      (fun t => t.disp.frameLatch) = some true := by decide
/-- The initial memory is free (R364): an address that nothing has stored has no known value. -/
theorem test_power_on_memory_is_free :
    memRead State.reset 0x0020 = Config.powerOnByte 0x40 ++ Config.powerOnByte 0x41 := rfl
theorem test_store_invalidates_both_caches :
    (memWrite { State.reset with mcache := [(5, .nop)], dcache := [(5, .dnop)] } 5 0x8002).mcache = []
    ∧ (memWrite { State.reset with mcache := [(5, .nop)], dcache := [(5, .dnop)] } 5 1).dcache = [] := by
  decide
theorem test_registry_conflict :
    registerDevices [(.external 1, [0x031, 0x032]), (.external 2, [0x032])] [] =
    .error (.iotRegistryConflict 0x032) := rfl
theorem test_disassembly_of_numbers :
    disassembleMain (mainState .fetch 0 false [(0x0100, 0x0601)]) 0x0100 = "RAL 0x1"
    ∧ disassembleDisplay (dispState 0 0 1 [] [(0x0300, 0x0806)]) 0x0300 = "DSTS 0x2" := by decide
theorem test_source_of_display_instructions :
    displayWordText Params.default 0x4000 0x0300 none = "DLVH"
    ∧ displaySource Params.default 0x4000 0x2003 0x7004 0x0300 = "DLVH 0x2003,0x7004"
    ∧ displaySource Params.default 0x1100 0x2003 0x7004 0x0300 = "DLXA 0x100" := by decide
theorem test_disassembly_of_indirect_order :
    disassembleMain (mainState .fetch 0 false [(0x0900, 0xE00A)]) 0x0900 = "LAC I 0x080A" := by decide

/-! ## Witnesses: for each statement with hypotheses, terms that meet them together -/

/-- With no cached decoding the caches are coherent. -/
theorem coherent_of_empty {s : State} (hm : s.mcache = []) (hd : s.dcache = []) :
    cachesCoherent s := by
  constructor
  · intro a i h
    rw [hm] at h
    cases h
  · intro a i h
    rw [hd] at h
    cases h

/-- A table with one entry, the decoding of its word. -/
theorem lookup_singleton {α : Type} {k a : Nat} {v w : α} (h : lookup a [(k, v)] = some w) :
    a = k ∧ w = v := by
  unfold lookup at h
  split at h
  · rename_i hk
    exact ⟨hk.symm, (Option.some.inj h).symm⟩
  · cases h

/-- Both processors Running and busy: an indirect LAC between Defer and Execute, a display list with
a return address, a cached decoding in each cache, a tag, and words in memory. -/
def busyState (agenda : List HostRequest) : State :=
  { mainState .execute 0x1234 true
      [(0x0100, 0xE00A), (0x000A, 0x0150), (0x0150, 0xBEEF), (0x0300, 0x0C00)] with
    main :=
      { (mainState .execute 0x1234 true []).main with ir := .lac true 0x00A, ea := 0x0150 }
    disp := (dispState 0x100 0x200 2 [0x0303] []).disp
    mcache := [(0x0100, .lac true 0x00A)]
    dcache := [(0x0300, .dhvc)]
    usage := [(0x0300, .processor)]
    agenda := agenda }

theorem busyState_coherent (agenda : List HostRequest) : cachesCoherent (busyState agenda) := by
  constructor
  · intro a i h
    obtain ⟨rfl, rfl⟩ := lookup_singleton h
    show _ = decodeMainWord (readWord (busyState []).mem 0x0100)
    decide
  · intro a i h
    obtain ⟨rfl, rfl⟩ := lookup_singleton h
    show _ = decodeDisplayWord 11 (readWord (busyState []).mem 0x0300)
    decide

theorem busyState_inRange (agenda : List HostRequest) : registersInRange (busyState agenda) where
  pc := show (0x0100 : Word).toNat < 2 ^ 13 by decide
  ea := show (0x0150 : Word).toNat < 2 ^ 13 by decide
  mainBp := show (0 : Word).toNat < 2 ^ 13 by decide
  dpc := show (0x0300 : Word).toNat < 2 ^ 13 by decide
  dentry := show (0 : Word).toNat < 2 ^ 13 by decide
  dispBp := show (0 : Word).toNat < 2 ^ 13 by decide
  dstack := by
    intro a ha
    have h : a = 0x0303 := by simpa [busyState, dispState] using ha
    subst h
    show (0x0303 : Word).toNat < 2 ^ 13
    decide
  block := show (0 : Word).toNat < 2 ^ (13 - 11) by decide
  scale := show 1 ≤ 2 ∧ 2 ≤ 3 by decide
  frameCnt := show 0 ≤ 13889 by decide

theorem busyState_canonical (agenda : List HostRequest) : tablesCanonical (busyState agenda) where
  mem := show memoryWf (busyState []).mem = true by decide
  memWhole := wholeWords_words _
  memRange := show ∀ e ∈ (busyState []).mem, e.1 < 2 * 2 ^ 13 by decide
  mcache := rfl
  mcacheRange := show ∀ e ∈ (busyState []).mcache, e.1 < 2 ^ 13 by decide
  dcache := rfl
  dcacheRange := show ∀ e ∈ (busyState []).dcache, e.1 < 2 ^ 13 by decide
  usage := rfl
  usageRange := show ∀ e ∈ (busyState []).usage, e.1 < 2 ^ 13 by decide

theorem busyState_consistent (agenda : List HostRequest) :
    transitionsConsistent (busyState agenda) where
  notRunning := by intro h; exact absurd rfl h
  order := by intro _; exact ⟨orderRecord .lac true 0x00A, rfl, rfl⟩
  defer := by intro h; cases h

theorem witness_DecodeOfEncode :
    (Instr.iot 0x031).wf 11 = true ∧ (Instr.skp true 0x1FF).wf 11 = true
    ∧ (Instr.dopr true false false false false false true false 2 0).wf 11 = true
    ∧ (Instr.unassignedDisplay 0x7FC7).wf 11 = true ∧ (Instr.djms 0x7FF).wf 11 = true
    ∧ Instr.coa.wf 11 = true := by decide

theorem witness_MainRecordOfWord :
    ((0x81FF : Word) &&& 0x7E00 = 0)
    ∧ ((0x0600 : Word) &&& 0xFE00 = 0x0600 ∧ (0x0600 : Word).extractLsb' 4 2 = BitVec.ofNat 2 0)
    ∧ ((0x07FF : Word) &&& 0xFE00 = 0x0600 ∧ (0x07FF : Word).extractLsb' 4 2 = BitVec.ofNat 2 3)
    ∧ ((0x85FF : Word) &&& 0x7E00 = 0x0400) ∧ ((0x03FF : Word) &&& 0xFE00 = 0x0200)
    ∧ ((0x0FFF : Word) &&& 0xF800 = 0x0800) ∧ ((0x8FFF : Word) &&& 0xF800 = 0x8800)
    ∧ ((0x1000 : Word).extractLsb' 11 4 = BitVec.ofNat 4 0x2)
    ∧ ((0xFFFF : Word).extractLsb' 11 4 = BitVec.ofNat 4 0xF)
    ∧ isUnassigned (decodeMainWord 0xC7FF) = true := by decide

theorem witness_DisplayRecordOfWord :
    ((0x8FFF : Word).extractLsb' 12 3 = 0#3) ∧ ((0x1FFF : Word).extractLsb' 12 3 = 1#3)
    ∧ ((0x2000 : Word).extractLsb' 12 3 = 2#3) ∧ ((0xBFFF : Word).extractLsb' 12 3 = 3#3)
    ∧ ((0x4000 : Word).extractLsb' 12 3 = 4#3)
    ∧ ((0x5FFF : Word).extractLsb' 12 3 = BitVec.ofNat 3 5)
    ∧ ((0xEFFF : Word).extractLsb' 12 3 = BitVec.ofNat 3 6)
    ∧ ((0xFFCF : Word) &&& 0x7FF8 = 0x7FC8)
    ∧ ((0x7FC7 : Word) &&& 0x7000 = 0x7000 ∧ (0x7FC7 : Word) &&& 0x0FF8 ≠ 0x0FC8) := by decide

theorem witness_ImmediateLoads :
    (mainState .fetch 5 true []).main.fsm = .fetch
    ∧ (mainState .execute 5 true []).main.fsm = .execute := by decide

/-- For JumpAndSkipIfEqual, DepositAndExchange, IncrementSkipsOnZero, SubroutineJumpSavesReturn,
LogicOrdersWriteAccumulator and AddSubtractToggleLink: a state in Execute, with each case of the
skips. -/
theorem witness_JumpAndSkipIfEqual :
    (busyState []).main.fsm = .execute
    ∧ memRead (busyState []) (operandAddress (busyState []) true 0x00A) = 0xBEEF
    ∧ (mainState .execute 0x1234 false [(0x150, 0x1234)]).main.ac =
      memRead (mainState .execute 0x1234 false [(0x150, 0x1234)])
        (operandAddress (mainState .execute 0x1234 false [(0x150, 0x1234)]) false 0x150) := by decide
theorem witness_DepositAndExchange : (busyState []).main.fsm = .execute := rfl
theorem witness_IncrementSkipsOnZero :
    (mainState .execute 0 false [(0x150, 0xFFFF)]).main.fsm = .execute
    ∧ memRead (mainState .execute 0 false [(0x150, 0xFFFF)])
      (operandAddress (mainState .execute 0 false [(0x150, 0xFFFF)]) false 0x150) = 0xFFFF := by decide
theorem witness_SubroutineJumpSavesReturn : (busyState []).main.fsm = .execute := rfl
theorem witness_LogicOrdersWriteAccumulator : (busyState []).main.fsm = .execute := rfl
theorem witness_AddSubtractToggleLink : (busyState []).main.fsm = .execute := rfl

theorem witness_FetchLatchesOrders :
    mainRecord (.lac true 0x00A) = some (orderRecord .lac true 0x00A)
    ∧ (orderRecord .lac true 0x00A).isOperateOrIot = false
    ∧ (orderRecord .lac true 0x00A).indirect = true
    ∧ mainRecord (.law 3) = some { opcode := .law, data := 3 }
    ∧ (mainState .fetch 0 false []).main.fsm = .fetch := by decide

/-- The pointer cell at each boundary of the index range: offsets 7, 8, 15 and 16. -/
theorem witness_DeferResolvesPointer :
    (∀ d ∈ [(0x007 : BitVec 11), 0x008, 0x00F, 0x010],
      mainRecord (.isz true d) = some (orderRecord .isz true d)
        ∧ (orderRecord .isz true d).indirect = true)
    ∧ (mainState .defer 0 false [(0x00F, 0xFFFF)]).main.fsm = .defer := by decide

/-- For the operate classes and IOT: a state in Fetch. -/
theorem witness_OperatePhases : (mainState .fetch 0xFFFF true []).main.fsm = .fetch := rfl
theorem witness_NamedOperatesHltToCoa : (mainState .fetch 0xFFFF true []).main.fsm = .fetch := rfl
theorem witness_NamedOperatesCiaToCal : (mainState .fetch 0 true []).main.fsm = .fetch := rfl
theorem witness_RotatesTurnSeventeenBitRing :
    (mainState .fetch 0x8001 true []).main.fsm = .fetch := rfl
theorem witness_ShiftsKeepSignAndLink :
    (mainState .fetch 0x8001 true []).main.fsm = .fetch := rfl

theorem witness_HighestConditionDecidesSkip :
    (mainState .fetch 0 true []).main.fsm = .fetch
    ∧ ((0x001 : BitVec 9).getLsbD 0 = true ∧ ∀ j < 20, 0 < j → (0x001 : BitVec 9).getLsbD j = false)
    ∧ ((0x1FF : BitVec 9).getLsbD 8 = true
      ∧ ∀ j < 20, 8 < j → (0x1FF : BitVec 9).getLsbD j = false) := by decide
theorem witness_NamedSkipsAszToKsf : (mainState .fetch 0x8000 true []).main.fsm = .fetch := rfl
theorem witness_NamedSkipsKsnToHsn : (mainState .fetch 0 false []).main.fsm = .fetch := rfl

/-- A Main Processor in Fetch whose registry also holds an external device, and one misrouted code;
0x031 may be the ignored code. -/
def iotState (ignored : Option IotCode) : State :=
  { mainState .fetch 0x0041 true [] with
    params :=
      { Params.default with
        ignoredIotCode := ignored
        registry := Params.default.registry ++ [(0x031, .external 7), (0x032, .display)] } }

theorem witness_IgnoredAndUnownedIot :
    (iotState (some 0x031)).main.fsm = .fetch
    ∧ (iotState (some 0x031)).params.ignoredIotCode = some 0x031
    ∧ (iotState none).params.ignoredIotCode ≠ some 0x088
    ∧ owner (iotState none).params.registry 0x088 = none := by decide
theorem witness_ExternalIotFrame :
    (iotState none).main.fsm = .fetch ∧ (iotState none).params.ignoredIotCode ≠ some 0x031
    ∧ owner (iotState none).params.registry 0x031 = some (.external 7) := by decide
theorem witness_DisplayIotCodes :
    (iotState (some 0x031)).main.fsm = .fetch
    ∧ ∀ c ∈ displayCodes, (iotState (some 0x031)).params.ignoredIotCode ≠ some c
      ∧ owner (iotState (some 0x031)).params.registry c = some .display := by decide
theorem witness_MisroutedIotIsFatal :
    ((iotState none).main.fsm = .fetch ∧ (iotState none).params.ignoredIotCode ≠ some 0x032
      ∧ owner (iotState none).params.registry 0x032 = some .display ∧ (0x032 : IotCode) ∉ displayCodes)
    ∧ Params.default.registry.wf = true := by decide
theorem witness_RegistrationGivesOneOwner :
    ([(Device.display, displayCodes), (.external 1, [0x031])].flatMap Prod.snd).Nodup
    ∧ ¬ ([(Device.external 1, [(0x031 : IotCode), 0x032]), (.external 2, [0x032])].flatMap
      Prod.snd).Nodup := by decide

theorem witness_FatalErrorsAreUndecodableFetches :
    (mainState .fetch 0 false [(0x100, 0xC7FF)]).params.wf = true
    ∧ cachesCoherent (mainState .fetch 0 false [(0x100, 0xC7FF)])
    ∧ transitionsConsistent (mainState .fetch 0 false [(0x100, 0xC7FF)])
    ∧ mainStep (mainState .fetch 0 false [(0x100, 0xC7FF)]) =
      .fault (.unimplementedInstruction 0xC7FF 0x0100) :=
  ⟨by decide, coherent_of_empty rfl rfl,
    ⟨fun h => absurd rfl h, fun h => absurd rfl h, fun h => by cases h⟩, rfl⟩

theorem witness_DisplayBranches : (dispState 0 0 1 [] []).params.addrBits ≤ 16 := by decide

/-- Each half format with its lowest and highest half. -/
theorem witness_VectorHalfMoves :
    (0x80 : Byte).getLsbD 7 = true ∧ (0xFF : Byte).getLsbD 7 = true := by decide
theorem witness_ControlHalfActs :
    (0x00 : Byte).getLsbD 7 = false ∧ (0x7F : Byte).getLsbD 7 = false := by decide

theorem witness_MainStepRunsDecodedInstruction :
    ((mainState .fetch 0 false []).withFetchWord 16 0x8005).agenda = .mainStep :: []
    ∧ ((mainState .fetch 0 false []).withFetchWord 16 0x8005).main.mstate = .running
    ∧ cachesCoherent ((mainState .fetch 0 false []).withFetchWord 16 0x8005)
    ∧ ((mainState .fetch 0 false []).withFetchWord 16 0x8005).main.fsm = .fetch
    ∧ decode 11 .main
        [readByte ((mainState .fetch 0 false []).withFetchWord 16 0x8005).mem (2 * 0x0100),
          readByte ((mainState .fetch 0 false []).withFetchWord 16 0x8005).mem (2 * 0x0100 + 1)] =
      .ok (.coa, [])
    ∧ isUnassigned .coa = false
    ∧ (busyState [.mainStep]).agenda = .mainStep :: []
    ∧ (busyState [.mainStep]).main.fsm ≠ .fetch
    ∧ (busyState [.mainStep]).main.ir = .lac true 0x00A :=
  ⟨rfl, rfl, coherent_of_empty rfl rfl, rfl, rfl, rfl, rfl, by decide, rfl⟩

theorem witness_DispStepRunsDecodedInstruction :
    ((busyState [.dispStep]).agenda = .dispStep :: []
      ∧ (busyState [.dispStep]).disp.dstate = .running
      ∧ cachesCoherent (busyState [.dispStep])
      ∧ (busyState [.dispStep]).disp.dmode = .processor
      ∧ decode 11 .display
          [readByte (busyState [.dispStep]).mem (2 * 0x0300),
            readByte (busyState [.dispStep]).mem (2 * 0x0300 + 1)] = .ok (.dhvc, [])
      ∧ isUnassigned .dhvc = false)
    ∧ (State.reset.withFetchWord 8 0xDB).agenda = .dispStep :: []
    ∧ (State.reset.withFetchWord 8 0xDB).disp.dstate = .running
    ∧ cachesCoherent (State.reset.withFetchWord 8 0xDB)
    ∧ (State.reset.withFetchWord 8 0xDB).disp.dmode = .increment
    ∧ decode 11 .half [(State.reset.withFetchWord 8 0xDB).disp.immWord.extractLsb' 8 8] =
      .ok (.incVec true false 3 false 3, []) :=
  ⟨⟨rfl, rfl, busyState_coherent _, rfl, rfl, rfl⟩, rfl, rfl, coherent_of_empty rfl rfl, rfl, rfl⟩

theorem witness_StoppedProcessorsOnlyCountFrames :
    State.reset.main.mstate ≠ .running ∧ State.reset.disp.dstate ≠ .running := by decide

/-- The frame counter at its threshold, for the crossing. -/
def atThreshold (agenda : List HostRequest) : State :=
  { busyState agenda with
    params := { Params.default with frameCycles := 3 }
    disp := { (busyState []).disp with frameCnt := 3 } }

theorem witness_FrameCounterIsIndependent :
    (cachesCoherent (busyState []) ∧ ∃ t, dispStep (busyState []) = .next t)
    ∧ cachesCoherent (atThreshold []) ∧ ∃ t, dispStep (atThreshold []) = .next t :=
  ⟨⟨busyState_coherent [], _, rfl⟩,
    ⟨(busyState_coherent []).main, (busyState_coherent []).display⟩, _, rfl⟩

/-- A stopped Display Processor with a cleared counter, asked for `n` steps. -/
def stoppedState (n : Nat) : State :=
  { State.reset with
    params := { Params.default with frameCycles := 3 }
    agenda := List.replicate n .dispStep }

theorem witness_FramePeriodOfStoppedDisplay :
    (stoppedState 4).disp.dstate ≠ .running ∧ (stoppedState 4).disp.frameCnt = 0
    ∧ (3 ≤ (stoppedState 3).params.frameCycles
      ∧ (stoppedState 3).agenda = List.replicate 3 .dispStep ++ [])
    ∧ (stoppedState 4).agenda =
      List.replicate ((stoppedState 4).params.frameCycles + 1) .dispStep ++ [] := by decide

/-- A word of each length: an operate word, a direct and an indirect order. -/
theorem witness_StepsPerInstruction :
    (mainState .fetch 0 false [(0x100, 0x8005)]).main.mstate = .running
    ∧ (mainState .fetch 0 false [(0x100, 0x8005)]).main.fsm = .fetch
    ∧ cachesCoherent (mainState .fetch 0 false [(0x100, 0x8005)])
    ∧ (mainState .fetch 0 false [(0x100, 0x8005)]).params.wf = true
    ∧ mainRecord (decodeMainWord (memRead (mainState .fetch 0 false [(0x100, 0x8005)])
        (mainState .fetch 0 false [(0x100, 0x8005)]).main.pc)) =
      some { opcode := .opr, data := 5, isOperateOrIot := true } :=
  ⟨rfl, rfl, coherent_of_empty rfl rfl, by decide, by decide⟩
theorem witness_StepsPerInstruction_direct :
    (mainState .fetch 0 false [(0x100, 0x6150)]).main.mstate = .running
    ∧ (mainState .fetch 0 false [(0x100, 0x6150)]).main.fsm = .fetch
    ∧ cachesCoherent (mainState .fetch 0 false [(0x100, 0x6150)])
    ∧ (mainState .fetch 0 false [(0x100, 0x6150)]).params.wf = true
    ∧ mainRecord (decodeMainWord (memRead (mainState .fetch 0 false [(0x100, 0x6150)])
        (mainState .fetch 0 false [(0x100, 0x6150)]).main.pc)) =
      some (orderRecord .lac false 0x150) :=
  ⟨rfl, rfl, coherent_of_empty rfl rfl, by decide, by decide⟩
theorem witness_StepsPerInstruction_indirect :
    (mainState .fetch 0 false [(0x100, 0xE00A)]).main.mstate = .running
    ∧ (mainState .fetch 0 false [(0x100, 0xE00A)]).main.fsm = .fetch
    ∧ cachesCoherent (mainState .fetch 0 false [(0x100, 0xE00A)])
    ∧ (mainState .fetch 0 false [(0x100, 0xE00A)]).params.wf = true
    ∧ mainRecord (decodeMainWord (memRead (mainState .fetch 0 false [(0x100, 0xE00A)])
        (mainState .fetch 0 false [(0x100, 0xE00A)]).main.pc)) =
      some (orderRecord .lac true 0x00A) :=
  ⟨rfl, rfl, coherent_of_empty rfl rfl, by decide, by decide⟩

theorem witness_ResetRequest : (busyState [.reset, .mainStep]).agenda = .reset :: [.mainStep] := rfl

/-- Each request of the statement heads the agenda of a state with both processors Halted, the deposits
at boundary values. -/
theorem witness_HostRequestsBetweenSteps :
    (State.reset.main.mstate ≠ .running ∧ State.reset.disp.dstate ≠ .running
      ∧ 13889 ≤ State.reset.params.frameCycles)
    ∧ ({ State.reset with
          agenda := [.resumeDisplay]
          disp := { DispRegs.reset with dstate := .breakpointHalt } } : State).disp.dstate =
      .breakpointHalt
    ∧ ∀ r ∈ [HostRequest.store 0x1FFF 0x8005, .resumeMain, .resumeDisplay, .depositMain .pc 0x2100,
          .depositMain .ac 0xFFFF, .depositMain .link 0x0001, .depositMain .ds 0xFFFF,
          .depositDisplay .dpc 0xFFFF, .depositDisplay .block 0xFFFF, .depositDisplay .x 0x0800,
          .depositDisplay .y 0x07FF, .depositDisplay .scale 0x0000, .depositDisplay .scale 0x0003,
          .depositDisplay .sgr 0x0007, .depositStack [0xFFFF, 0x0000], .depositFrameCount 0,
          .depositFrameCount 13889, .depositDisplay .frameLatch 0x0001, .setDevices 7,
          .setBreakpoints [⟨.read, 0x0150⟩], .setReadiness ⟨true, true, true, true⟩,
          .setSwitches true 0xFFFF],
        ({ State.reset with agenda := [r] } : State).agenda = r :: [] :=
  ⟨by decide, rfl, fun _ _ => rfl⟩

theorem witness_DisplayStepsLeaveMainAndMemory :
    cachesCoherent (busyState []) ∧ ∃ t, dispStep (busyState []) = .next t :=
  ⟨busyState_coherent [], _, rfl⟩
theorem witness_MainStepsLeaveDrawingState :
    cachesCoherent (busyState []) ∧ transitionsConsistent (busyState [])
    ∧ ∃ t, mainStep (busyState []) = .next t :=
  ⟨busyState_coherent [], busyState_consistent [], _, rfl⟩

/-- The latch set, and SCF, a reset or a deposit next. -/
def latchedState (agenda : List HostRequest) : State :=
  { mainState .fetch 0 false [(0x100, 0x0239)] with
    disp := { DispRegs.reset with frameLatch := true }
    agenda := agenda }

theorem witness_OnlyScfResetOrDepositClearsLatch :
    ∀ r ∈ [HostRequest.mainStep, .reset, .depositDisplay .frameLatch 0xFFFE],
      cachesCoherent (latchedState [r]) ∧ (latchedState [r]).disp.frameLatch = true
      ∧ ∃ t, step (latchedState [r]) = .next t ∧ t.disp.frameLatch = false := by
  intro r hr
  refine ⟨coherent_of_empty rfl rfl, rfl, ?_⟩
  rcases List.mem_cons.mp hr with h | hr
  · subst h; exact ⟨_, rfl, rfl⟩
  rcases List.mem_cons.mp hr with h | hr
  · subst h; exact ⟨_, rfl, rfl⟩
  rcases List.mem_cons.mp hr with h | hr
  · subst h; exact ⟨_, rfl, rfl⟩
  cases hr

theorem witness_ConfigurationFixedTracesGrow :
    ∃ t, step (busyState [.dispStep]) = .next t ∧ t.sink.length = 2 := ⟨_, rfl, rfl⟩

/-- A JMS at 0x0100 to 0x0150, and then an indirect JMP through 0x0150 in Defer. -/
def returning : State :=
  { mainState .defer 0 false [(0x0150, 0x0101)] with
    main := { (mainState .defer 0 false []).main with pc := 0x0160 } }

theorem witness_SubroutineReturns :
    (mainState .execute 0 false []).main.fsm = .execute
    ∧ (∃ t, exec (.jms false 0x150) (mainState .execute 0 false []) = .next t
      ∧ returning.mem = t.mem ∧ returning.params = t.params)
    ∧ returning.main.fsm = .defer
    ∧ pageAddress returning 0x150 =
      returning.mask (operandAddress (mainState .execute 0 false []) false 0x150)
    ∧ isIndexCell (pageAddress returning 0x150) = false :=
  ⟨rfl, ⟨_, rfl, by decide, by decide⟩, rfl, by decide, by decide⟩

theorem witness_StepKeepsRegistersInRange :
    registersInRange (busyState [.mainStep]) ∧ ∃ t, step (busyState [.mainStep]) = .next t :=
  ⟨busyState_inRange _, _, rfl⟩
theorem witness_StepKeepsCachesCoherent :
    cachesCoherent (busyState [.store 0x0300 0x0000])
    ∧ ∃ t, step (busyState [.store 0x0300 0x0000]) = .next t ∧ t.dcache = [] :=
  ⟨busyState_coherent _, _, rfl, rfl⟩
theorem witness_StepKeepsTablesCanonical :
    tablesCanonical (busyState [.dispStep]) ∧ ∃ t, step (busyState [.dispStep]) = .next t :=
  ⟨busyState_canonical _, _, rfl⟩
theorem witness_StepKeepsTransitionsConsistent :
    cachesCoherent (busyState [.mainStep]) ∧ transitionsConsistent (busyState [.mainStep])
    ∧ ∃ t, step (busyState [.mainStep]) = .next t :=
  ⟨busyState_coherent _, busyState_consistent _, _, rfl⟩
theorem witness_CachesAreInvisible :
    cachesCoherent (busyState [.mainStep]) ∧ (busyState [.mainStep]).mcache ≠ [] :=
  ⟨busyState_coherent _, by decide⟩

end Sys2Proof.Tests
end

section
/-! The decoded record of every Main word (spec 30_encoding.md R82 to R90): which test of the cascade
of R82 a word passes, that naming a combination (R105) does not change its record, and the record of
each class. -/

namespace Sys2Proof.Encoding

open Sys2Proof.Machine

/-! ### Fields of a word under a mask -/

/-- Two masked values that differ on the bits both masks keep exclude each other. -/
theorem and_ne_of_and_eq {w m v m' v' : Word} (h : w &&& m = v) (hne : v &&& m' ≠ v' &&& m) :
    w &&& m' ≠ v' := by
  intro h'
  apply hne
  calc v &&& m' = w &&& m &&& m' := by rw [h]
    _ = w &&& m' &&& m := by rw [BitVec.and_assoc, BitVec.and_comm m, ← BitVec.and_assoc]
    _ = v' &&& m := by rw [h']

/-- A mask that keeps the whole field OP determines it. -/
theorem op_of_and_eq {w m v : Word} (h : w &&& m = v)
    (hm : m.extractLsb' 11 4 = BitVec.allOnes 4) :
    w.extractLsb' 11 4 = v.extractLsb' 11 4 := by
  rw [← h, BitVec.extractLsb'_and, hm, BitVec.and_allOnes]

/-- A mask that keeps bit 15 determines it. -/
theorem bit15_of_and_eq {w m v : Word} (h : w &&& m = v) (hm : m.getLsbD 15 = true) :
    w.getLsbD 15 = v.getLsbD 15 := by
  rw [← h, BitVec.getLsbD_and, hm, Bool.and_true]

/-! ### The cascade of R82 -/

theorem decodeMainWord_of_opr {w : Word} (h : w &&& 0x7E00 = 0) :
    decodeMainWord w = decodeOpr w := by
  rw [decodeMainWord, if_pos h]

theorem decodeMainWord_of_shift {w : Word} (h : w &&& 0xFE00 = 0x0600) :
    decodeMainWord w = decodeShift w := by
  have hopr : w &&& 0x7E00 ≠ 0 := and_ne_of_and_eq h (by decide)
  rw [decodeMainWord, if_neg hopr, if_pos h]

theorem decodeMainWord_of_skp {w : Word} (h : w &&& 0x7E00 = 0x0400) :
    decodeMainWord w = decodeSkp w := by
  have hopr : w &&& 0x7E00 ≠ 0 := and_ne_of_and_eq h (by decide)
  have hshift : w &&& 0xFE00 ≠ 0x0600 := and_ne_of_and_eq h (by decide)
  rw [decodeMainWord, if_neg hopr, if_neg hshift, if_pos h]

theorem decodeMainWord_of_iot {w : Word} (h : w &&& 0xFE00 = 0x0200) :
    decodeMainWord w = nameIot (w.extractLsb' 0 9) := by
  have hopr : w &&& 0x7E00 ≠ 0 := and_ne_of_and_eq h (by decide)
  have hshift : w &&& 0xFE00 ≠ 0x0600 := and_ne_of_and_eq h (by decide)
  have hskp : w &&& 0x7E00 ≠ 0x0400 := and_ne_of_and_eq h (by decide)
  rw [decodeMainWord, if_neg hopr, if_neg hshift, if_neg hskp, if_pos h]

/-- The first four tests pass only words with OP = 0. -/
theorem decodeMainWord_of_op_ne_zero {w : Word} (hop : w.extractLsb' 11 4 ≠ 0) :
    decodeMainWord w = decodeOrder w := by
  have hopr : w &&& 0x7E00 ≠ 0 := fun h => hop (op_of_and_eq h (by decide))
  have hshift : w &&& 0xFE00 ≠ 0x0600 := fun h => hop (op_of_and_eq h (by decide))
  have hskp : w &&& 0x7E00 ≠ 0x0400 := fun h => hop (op_of_and_eq h (by decide))
  have hiot : w &&& 0xFE00 ≠ 0x0200 := fun h => hop (op_of_and_eq h (by decide))
  rw [decodeMainWord, if_neg hopr, if_neg hshift, if_neg hskp, if_neg hiot]

/-! ### A name expands to the row it names (R105) -/

/-- A name chosen by a test expands to a row when both answers of the test do. -/
theorem expand_ite {p : Prop} [Decidable p] {i j row : Instr} (hi : p → i.expand = row)
    (hj : j.expand = row) : (if p then i else j).expand = row := by
  split
  next h => exact hi h
  next => exact hj

@[simp] theorem expand_nameOpr (nh oda cml cll iac cma cla : Bool) :
    (nameOpr nh oda cml cll iac cma cla).expand = .opr nh oda cml cll iac cma cla := by
  unfold nameOpr
  split <;> rfl

@[simp] theorem expand_nameRal (don : Bool) (cnt : BitVec 2) :
    (nameRal don cnt).expand = .ral don cnt := by
  unfold nameRal
  refine expand_ite (fun h => ?_) rfl
  obtain ⟨rfl, hcnt⟩ := Bool.and_eq_true_iff.mp h
  rw [eq_of_beq hcnt]
  rfl

@[simp] theorem expand_nameSkp (neg : Bool) (cond : BitVec 9) :
    (nameSkp neg cond).expand = .skp neg cond := by
  unfold nameSkp
  iterate 9 refine expand_ite (fun hcond => by subst hcond; cases neg <;> rfl) ?_
  rfl

@[simp] theorem expand_nameIot (code : IotCode) : (nameIot code).expand = .iot code := by
  unfold nameIot
  iterate 4 refine expand_ite (fun hcode => by subst hcode; rfl) ?_
  rfl

/-! ### Records -/

theorem mainRecord_eq_none_of_isUnassigned {i : Instr} (h : isUnassigned i = true) :
    mainRecord i = none := by
  cases i with
  | unassignedIot | unassignedShift | unassignedOrder3 | unassignedOrder8 | unassignedDisplay => rfl
  | _ => cases h

/-- The data of class 1 are the low six bits of its encoding. -/
theorem encodeOpr_data (w : Word) :
    (encodeOpr (w.getLsbD 15) (w.getLsbD 5) (w.getLsbD 4) (w.getLsbD 3) (w.getLsbD 2) (w.getLsbD 1)
      (w.getLsbD 0) &&& 0x3F).extractLsb' 0 11 = (w.extractLsb' 0 6).zeroExtend 11 := by
  apply BitVec.eq_of_getLsbD_eq
  intro i hi
  simp only [encodeOpr, BitVec.getLsbD_extractLsb', BitVec.getLsbD_and, BitVec.getLsbD_setWidth,
    BitVec.getLsbD_append, BitVec.getLsbD_ofBool]
  interval_cases i <;> simp

theorem mainRecord_decodeOpr (w : Word) :
    mainRecord (decodeOpr w) =
      some { opcode := .opr, data := (w.extractLsb' 0 6).zeroExtend 11,
             halt := decide (w.getLsbD 15 = false), isOperateOrIot := true } := by
  have hhalt : decide (w.getLsbD 15 = false) = !w.getLsbD 15 := by cases w.getLsbD 15 <;> rfl
  simp only [mainRecord, decodeOpr, expand_nameOpr, encodeOpr_data, hhalt]

theorem mainRecord_nameRal (don : Bool) (cnt : BitVec 2) :
    mainRecord (nameRal don cnt) = some (shiftRecord .ral don cnt) := by
  rw [mainRecord, expand_nameRal]

/-- SOP selects the tag of class 2 (R84). -/
theorem mainRecord_decodeShift (w : Word) :
    ∀ e ∈ [(0, MainOpcode.ral), (1, .rar), (2, .sal), (3, .sar)],
      w.extractLsb' 4 2 = BitVec.ofNat 2 e.1 →
      mainRecord (decodeShift w) = some (shiftRecord e.2 (w.getLsbD 6) (w.extractLsb' 0 2)) := by
  intro e he hsop
  have h5 : w.getLsbD 5 = (BitVec.ofNat 2 e.1).getLsbD 1 := by simp [← hsop]
  have h4 : w.getLsbD 4 = (BitVec.ofNat 2 e.1).getLsbD 0 := by simp [← hsop]
  rw [decodeShift, h5, h4]
  fin_cases he
  case _ => exact mainRecord_nameRal ..
  all_goals rfl

theorem mainRecord_decodeSkp (w : Word) :
    mainRecord (decodeSkp w) =
      some { opcode := .skp, data := (w.extractLsb' 0 9).zeroExtend 11,
             skipNegate := w.getLsbD 15, isOperateOrIot := true } := by
  rw [mainRecord, decodeSkp, expand_nameSkp]

/-- DEV and IOP are the two parts of the code (R86). -/
theorem mainRecord_nameIot (w : Word) :
    mainRecord (nameIot (w.extractLsb' 0 9)) =
      some { opcode := .iot, data := (w.extractLsb' 0 9).zeroExtend 11, isOperateOrIot := true,
             dev := some (w.extractLsb' 3 6), iop := some (w.extractLsb' 0 3) } := by
  have hdev : (w.extractLsb' 0 9).extractLsb' 3 6 = w.extractLsb' 3 6 :=
    BitVec.extractLsb'_extractLsb'_of_le (by decide)
  have hiop : (w.extractLsb' 0 9).extractLsb' 0 3 = w.extractLsb' 0 3 :=
    BitVec.extractLsb'_extractLsb'_of_le (by decide)
  simp only [mainRecord, expand_nameIot, hdev, hiop]

/-- OP = 1 is an immediate load; bit 15 tells LWC from LAW (R87). -/
theorem decodeOrder_of_op_one {w : Word} (hop : w.extractLsb' 11 4 = 1) :
    decodeOrder w =
      if w.getLsbD 15 then .lwc (w.extractLsb' 0 11) else .law (w.extractLsb' 0 11) := by
  rw [decodeOrder, if_pos hop]

/-- Every other assigned OP is an order with a memory operand (R87). -/
theorem mainRecord_decodeOrder (w : Word) :
    ∀ e ∈ [(0x2, MainOpcode.jmp), (0x4, .dac), (0x5, .xam), (0x6, .isz), (0x7, .jms), (0x9, .and),
           (0xA, .ior), (0xB, .xor), (0xC, .lac), (0xD, .add), (0xE, .sub), (0xF, .sam)],
      w.extractLsb' 11 4 = BitVec.ofNat 4 e.1 →
      mainRecord (decodeOrder w) = some (orderRecord e.2 (w.getLsbD 15) (w.extractLsb' 0 11)) := by
  intro e he hop
  rw [decodeOrder, hop]
  fin_cases he <;> rfl

/-! ### The obligation -/

/-- Settles O4: the first test of R82 that the word passes selects its class, and the class its
record. -/
theorem mainRecordOfWord : Obligations.MainRecordOfWord := by
  intro w
  refine ⟨fun h => ?opr, fun h => ?shift, fun h => ?skp, fun h => ?iot, fun h => ?law,
    fun h => ?lwc, ?order, mainRecord_eq_none_of_isUnassigned⟩
  case opr => rw [decodeMainWord_of_opr h, mainRecord_decodeOpr]
  case shift => rw [decodeMainWord_of_shift h]; exact mainRecord_decodeShift w
  case skp => rw [decodeMainWord_of_skp h, mainRecord_decodeSkp]
  case iot => rw [decodeMainWord_of_iot h, mainRecord_nameIot]
  case law =>
    have hop : w.extractLsb' 11 4 = 1 := op_of_and_eq h (by decide)
    have hind : w.getLsbD 15 = false := bit15_of_and_eq h (by decide)
    rw [decodeMainWord_of_op_ne_zero (by simp [hop]), decodeOrder_of_op_one hop, hind]
    rfl
  case lwc =>
    have hop : w.extractLsb' 11 4 = 1 := op_of_and_eq h (by decide)
    have hind : w.getLsbD 15 = true := bit15_of_and_eq h (by decide)
    rw [decodeMainWord_of_op_ne_zero (by simp [hop]), decodeOrder_of_op_one hop, hind]
    rfl
  case order =>
    intro e he hop
    have hne : w.extractLsb' 11 4 ≠ 0 := by
      rw [hop]
      fin_cases he <;> decide
    rw [decodeMainWord_of_op_ne_zero hne]
    exact mainRecord_decodeOrder w e he hop

end Sys2Proof.Encoding
end

section
/-! The transitions of the Main Processor (spec 40_main_fsm.md R121 to R131): the three ways in which
an instruction with a decoded record runs, what Defer forms and latches, and how many steps take an
instruction from Fetch back to Fetch. -/

namespace Sys2Proof.Transitions

open Sys2Proof.Machine

/-! ### What an instruction runs as -/

/-- The meaning of a Main Processor row, with `i` as the spelling that IR latches; any other row has
its own meaning. -/
def runRow (i row : Instr) (s : State) : Result :=
  match row with
  | .opr nh oda cml cll iac cma cla => runOperate i (performOpr nh oda cml cll iac cma cla) s
  | .ral don cnt => runOperate i (performShift rotateLeft1 don cnt) s
  | .rar don cnt => runOperate i (performShift rotateRight1 don cnt) s
  | .sal don cnt => runOperate i (performShift shiftLeft1 don cnt) s
  | .sar don cnt => runOperate i (performShift shiftRight1 don cnt) s
  | .skp neg cond => runOperate i (performSkp neg cond) s
  | .iot code => runIot i code s
  | .law imm => runOrder i false imm (performLaw imm) s
  | .lwc imm => runOrder i false imm (performLwc imm) s
  | .jmp ind d => runOrder i ind d performJmp s
  | .dac ind d => runOrder i ind d performDac s
  | .xam ind d => runOrder i ind d performXam s
  | .isz ind d => runOrder i ind d performIsz s
  | .jms ind d => runOrder i ind d performJms s
  | .and ind d => runOrder i ind d (performLogic fun ac m => ac &&& m) s
  | .ior ind d => runOrder i ind d (performLogic fun ac m => ac ||| m) s
  | .xor ind d => runOrder i ind d (performLogic fun ac m => ac ^^^ m) s
  | .lac ind d => runOrder i ind d (performLogic fun _ m => m) s
  | .add ind d => runOrder i ind d (performArith addLink) s
  | .sub ind d => runOrder i ind d (performArith subLink) s
  | .sam ind d => runOrder i ind d performSam s
  | row => exec row s

/-- A named combination runs as the row it expands to (R105). -/
theorem exec_eq_runRow_expand (i : Instr) (s : State) : exec i s = runRow i i.expand s := by
  cases i <;> rfl

/-- An effect that leaves FSM alone. -/
def KeepsFsm (p : Perform) : Prop := ∀ s, (p s).1.main.fsm = s.main.fsm

theorem performOpr_keepsFsm {nh oda cml cll iac cma cla : Bool} :
    KeepsFsm (performOpr nh oda cml cll iac cma cla) := by
  intro s
  cases nh <;> rfl

theorem performShift_keepsFsm {step1 : Accumulator → Accumulator} {on : Bool} {cnt : BitVec 2} :
    KeepsFsm (performShift step1 on cnt) := by
  intro s
  rw [performShift, whenSet_resume_eq]
  rfl

theorem performSkp_keepsFsm {neg : Bool} {cond : BitVec 9} : KeepsFsm (performSkp neg cond) :=
  fun _ => rfl

/-- The three ways in which an instruction with the record `r` runs (R121). -/
inductive RunsAs (i : Instr) (r : MainRecord) : Prop where
  | order (p : Perform) (class_eq : r.isOperateOrIot = false)
      (exec_eq : ∀ s, exec i s = runOrder i r.indirect r.data p s)
  | operate (p : Perform) (class_eq : r.isOperateOrIot = true) (indirect_eq : r.indirect = false)
      (keepsFsm : KeepsFsm p) (exec_eq : ∀ s, exec i s = runOperate i p s)
  | iot (code : IotCode) (class_eq : r.isOperateOrIot = true) (indirect_eq : r.indirect = false)
      (exec_eq : ∀ s, exec i s = runIot i code s)

/-- The record says how the instruction runs: the row that it expands to determines both. -/
theorem runsAs_of_mainRecord {i : Instr} {r : MainRecord} (h : mainRecord i = some r) :
    RunsAs i r := by
  have hexec := exec_eq_runRow_expand i
  unfold mainRecord at h
  generalize i.expand = row at h hexec
  cases row with
  | opr => cases h; exact .operate _ rfl rfl performOpr_keepsFsm hexec
  | ral | rar | sal | sar => cases h; exact .operate _ rfl rfl performShift_keepsFsm hexec
  | skp => cases h; exact .operate _ rfl rfl performSkp_keepsFsm hexec
  | iot => cases h; exact .iot _ rfl rfl hexec
  | law | lwc | jmp | dac | xam | isz | jms | and | ior | xor | lac | add | sub | sam =>
    cases h; exact .order _ rfl hexec
  | _ => cases h

/-! ### The Defer transition -/

/-- Clearing the offset within the page leaves the start of the page (R124). -/
theorem and_not_pageOffsetMask (pc : Word) : pc &&& ~~~pageOffsetMask = pc >>> 11 <<< 11 := by
  apply BitVec.eq_of_getLsbD_eq
  intro i hi
  interval_cases i <;> simp [pageOffsetMask]

/-- Placing the operand below the page bits adds it to the start of the page (R124). -/
theorem page_or_operand_toNat (pc : Word) (d : BitVec 11) :
    ((pc &&& ~~~pageOffsetMask) ||| d.zeroExtend 16).toNat =
      pc.toNat / 2 ^ 11 * 2 ^ 11 + d.toNat := by
  have hpage : (pc >>> 11 <<< 11).toNat = (pc.toNat / 2 ^ 11) <<< 11 := by
    rw [BitVec.toNat_shiftLeft, BitVec.toNat_ushiftRight, Nat.shiftRight_eq_div_pow,
      Nat.shiftLeft_eq]
    omega
  rw [and_not_pageOffsetMask, BitVec.toNat_or, hpage,
    BitVec.toNat_setWidth_of_le (by decide : 11 ≤ 16),
    ← Nat.shiftLeft_add_eq_or_of_lt d.isLt, Nat.shiftLeft_eq]

/-- The address of the pointer cell, in numbers (R124). -/
theorem pageAddress_toNat (s : State) (d : BitVec 11) :
    (pageAddress s d).toNat =
      (s.main.pc.toNat / 2 ^ 11 * 2 ^ 11 + d.toNat) % 2 ^ min s.params.addrBits 16 := by
  rw [pageAddress, mask_toNat, page_or_operand_toNat]

/-- A change of the Main registers after a store is not seen by what the store leaves. -/
theorem storedWord_onMain {s t : State} {a v : Word} (f : MainRegs → MainRegs)
    (h : storedWord s t a v) : storedWord s (t.onMain f) a v :=
  ⟨h.word, h.others, h.mcache, h.dcache, h.usage⟩

/-- Settles O15: an indirect instruction is an order, and `deferTransition_eq` has the two cases of
the index test. -/
theorem deferResolvesPointer : Obligations.DeferResolvesPointer := by
  intro i r s hrecord hindirect hfsm
  have hexec : exec i s = .next (deferTransition r.data s) := by
    cases runsAs_of_mainRecord hrecord with
    | order p _ hexec => rw [hexec, runOrder_defer _ _ _ _ _ hfsm]
    | operate _ _ hdirect => simp [hdirect] at hindirect
    | iot _ _ hdirect => simp [hdirect] at hindirect
  refine ⟨pageAddress s r.data, _, pageAddress_toNat s r.data, hexec, ?_⟩
  rw [deferTransition_eq]
  simp only [← isIndexCell_iff]
  by_cases hindex : isIndexCell (pageAddress s r.data) = true
  · simp only [if_pos hindex]
    exact ⟨rfl, storedWord_onMain _ (memWrite_storedWord s _ _), rfl⟩
  · simp only [if_neg hindex, show ∀ x : Word, x + 0 = x from BitVec.add_zero]
    exact ⟨rfl, rfl⟩

/-! ### FSM after a transition -/

@[simp] theorem complete_fsm (next : Word) (s : State) :
    (complete next s).main.fsm = s.main.fsm := by
  rw [complete_eq]
  rfl

@[simp] theorem executeTransition_fsm (ind : Bool) (d : BitVec 11) (p : Perform) (s : State) :
    (executeTransition ind d p s).main.fsm = .fetch := rfl

/-- Defer stores at most the pointer cell: of the Main registers it writes EA and FSM (R122). -/
theorem deferTransition_main (d : BitVec 11) (s : State) :
    ∃ ea, (deferTransition d s).main = { s.main with ea := ea, fsm := .execute } := by
  rw [deferTransition_eq]
  split <;> exact ⟨_, rfl⟩

/-- An operate-class instruction is back in Fetch after its one step (R121). -/
theorem runOperate_to_fetch (i : Instr) {p : Perform} (hp : KeepsFsm p) (s : State) :
    ∃ t, runOperate i p s = .next t ∧ t.main.fsm = .fetch :=
  ⟨_, runOperate_eq i p s, (complete_fsm _ _).trans (hp _)⟩

/-! ### IOT under a well-formed registry -/

theorem mem_of_owner {r : Registry} {code : IotCode} {d : Device} (h : owner r code = some d) :
    (code, d) ∈ r := by
  induction r with
  | nil => cases h
  | cons e rest ih =>
    obtain ⟨c, d'⟩ := e
    rw [owner] at h
    split at h
    next hc => cases hc; cases h; exact .head _
    next => exact .tail _ (ih h)

theorem registry_wf_of_params_wf {p : Params} (h : p.wf = true) : p.registry.wf = true :=
  (Bool.and_eq_true_iff.mp h).2

/-- A well-formed registry routes just its own four codes to the Display Processor (R241). -/
theorem mem_displayCodes_of_owner {r : Registry} {code : IotCode} (hwf : r.wf = true)
    (h : owner r code = some .display) : code ∈ displayCodes := by
  have hall := List.all_eq_true.mp (Bool.and_eq_true_iff.mp hwf).2 _ (mem_of_owner h)
  simpa using hall

/-- The Display Processor performs its four codes, and leaves the Main Processor alone (R237 to
R240). -/
theorem displayIot_ok {code : IotCode} (h : code ∈ displayCodes) (s : State) :
    ∃ t, displayIot code s = .ok t ∧ t.main = s.main := by
  simp only [displayCodes, List.mem_cons, List.not_mem_nil, or_false] at h
  rcases h with rfl | rfl | rfl | rfl
  · exact ⟨loadDpc s, rfl, rfl⟩
  · exact ⟨haltDisplay s, rfl, rfl⟩
  · exact ⟨clearFrameLatch s, rfl, rfl⟩
  · exact ⟨resumeHaltedDisplay s, rfl, by rw [resumeHaltedDisplay_eq]⟩

/-- Under a well-formed registry every IOT is performed, and none changes FSM (R230, R241). -/
theorem dispatchIot_ok (code : IotCode) {s : State} (hwf : s.params.registry.wf = true) :
    ∃ t, dispatchIot code s = .ok t ∧ t.main.fsm = s.main.fsm := by
  unfold dispatchIot
  split
  next => exact ⟨s, rfl, rfl⟩
  next =>
    split
    next howner =>
      obtain ⟨t, ht, hmain⟩ := displayIot_ok (mem_displayCodes_of_owner hwf howner) s
      exact ⟨t, ht, by rw [hmain]⟩
    next id _ => exact ⟨externalIot id code s, rfl, rfl⟩
    next => exact ⟨_, rfl, rfl⟩

/-- Under a well-formed registry an IOT is back in Fetch after its one step (R121). -/
theorem runIot_to_fetch (i : Instr) (code : IotCode) {s : State}
    (hwf : s.params.registry.wf = true) :
    ∃ t, runIot i code s = .next t ∧ t.main.fsm = .fetch := by
  obtain ⟨t, ht, hfsm⟩ := dispatchIot_ok code (s := latch i .fetch s) hwf
  exact ⟨complete (pcNext (latch i .fetch s)) t, by simp only [runIot, ht],
    (complete_fsm _ _).trans hfsm⟩

/-! ### One step of a Running processor -/

/-- The poll writes DS alone (R130). -/
theorem pollSwitches_eq (s : State) :
    ∃ v, pollSwitches s = s.onMain fun m => { m with ds := v } := by
  unfold pollSwitches
  split
  next => exact ⟨_, rfl⟩
  next => exact ⟨s.main.ds, rfl⟩

theorem mainStep_of_running {s : State} (h : s.main.mstate = .running) :
    mainStep s =
      exec (nextMainInstr (pollSwitches s)).1 (nextMainInstr (pollSwitches s)).2 := by
  rw [mainStep, if_pos h]

/-- In Fetch the instruction is the decoding of the word at PC. It runs in a state in which only DS
and a cache slot may be new (R66, R121, R130). -/
theorem mainStep_of_fetch {s : State} (hrun : s.main.mstate = .running)
    (hfsm : s.main.fsm = .fetch) (hcoh : cachesCoherent s) :
    ∃ v mc, mainStep s = exec (decodeMainWord (memRead s s.main.pc))
      { s with main := { s.main with ds := v }, mcache := mc } := by
  obtain ⟨v, hpoll⟩ := pollSwitches_eq s
  have hcoh' : cachesCoherent (pollSwitches s) := by rw [hpoll]; exact ⟨hcoh.main, hcoh.display⟩
  have hnext : nextMainInstr (pollSwitches s) = fetchMainWord (pollSwitches s) s.main.pc := by
    simp only [nextMainInstr, hpoll, onMain_main, hfsm]
  obtain ⟨mc, hsnd, -, -⟩ := fetchMainWord_snd (pollSwitches s) s.main.pc
  refine ⟨v, mc, ?_⟩
  rw [mainStep_of_running hrun, hnext, fetchMainWord_fst _ _ hcoh', hsnd, hpoll]
  rfl

/-- A Running processor that performs the transition `fsm` of the instruction `i` next. -/
structure InProgress (i : Instr) (fsm : Fsm) (s : State) : Prop where
  running : s.main.mstate = .running
  fsm : s.main.fsm = fsm
  ir : s.main.ir = i

/-- In Defer and Execute the instruction is the one that IR holds (R122, R123), and the poll does
not change what is in progress. -/
theorem mainStep_of_inProgress {i : Instr} {fsm : Fsm} {s : State} (h : InProgress i fsm s)
    (hne : fsm ≠ .fetch) : ∃ u, mainStep s = exec i u ∧ InProgress i fsm u := by
  obtain ⟨hrun, rfl, rfl⟩ := h
  obtain ⟨v, hpoll⟩ := pollSwitches_eq s
  refine ⟨pollSwitches s, ?_, ?_⟩
  · have hnext : nextMainInstr (pollSwitches s) = (s.main.ir, pollSwitches s) := by
      rw [hpoll]
      unfold nextMainInstr
      split
      next hfetch => exact absurd hfetch hne
      next => rfl
      next => rfl
    rw [mainStep_of_running hrun, hnext]
  · rw [hpoll]
    exact ⟨hrun, rfl, rfl⟩

/-! ### The steps of an order -/

section

variable {i : Instr} {ind : Bool} {d : BitVec 11} {p : Perform} {s : State}

/-- Fetch latches an order and goes to Defer or Execute (R121). -/
theorem fetch_order (hi : ∀ s, exec i s = runOrder i ind d p s) (hrun : s.main.mstate = .running)
    (hfsm : s.main.fsm = .fetch) :
    ∃ t, exec i s = .next t ∧ InProgress i (if ind then .defer else .execute) t :=
  ⟨_, (hi s).trans (runOrder_fetch i ind d p s hfsm), hrun, rfl, rfl⟩

/-- The step in Defer leaves the order in Execute (R122). -/
theorem mainStep_defer (hi : ∀ s, exec i s = runOrder i ind d p s) (h : InProgress i .defer s) :
    ∃ t, mainStep s = .next t ∧ InProgress i .execute t := by
  obtain ⟨u, hstep, hrun, hfsm, hir⟩ := mainStep_of_inProgress h (by decide)
  obtain ⟨ea, hmain⟩ := deferTransition_main d u
  refine ⟨deferTransition d u, by rw [hstep, hi, runOrder_defer _ _ _ _ _ hfsm], ?_⟩
  exact ⟨by rw [hmain]; exact hrun, by rw [hmain], by rw [hmain]; exact hir⟩

/-- The step in Execute ends the order (R123). -/
theorem mainStep_execute (hi : ∀ s, exec i s = runOrder i ind d p s)
    (h : InProgress i .execute s) : ∃ t, mainStep s = .next t ∧ t.main.fsm = .fetch := by
  obtain ⟨u, hstep, -, hfsm, -⟩ := mainStep_of_inProgress h (by decide)
  exact ⟨executeTransition ind d p u, by simp only [hstep, hi, runOrder, hfsm],
    executeTransition_fsm ind d p u⟩

end

/-- Settles O44: Fetch runs the decoded word at PC, and `RunsAs` says which transitions follow. -/
theorem stepsPerInstruction : Obligations.StepsPerInstruction := by
  intro s r hrun hfsm hcoh hwf hrecord
  obtain ⟨v, mc, hstep⟩ := mainStep_of_fetch hrun hfsm hcoh
  rw [hstep]
  cases runsAs_of_mainRecord hrecord with
  | operate p hclass _ hkeeps hexec =>
    simp only [hclass, if_true, hexec]
    exact runOperate_to_fetch _ hkeeps _
  | iot code hclass _ hexec =>
    simp only [hclass, if_true, hexec]
    exact runIot_to_fetch _ code (registry_wf_of_params_wf hwf)
  | order p hclass hexec =>
    obtain ⟨s1, h1, hs1⟩ := fetch_order hexec (s := { s with
      main := { s.main with ds := v }, mcache := mc }) hrun hfsm
    refine ⟨s1, h1, ?_⟩
    simp only [hclass, Bool.false_eq_true, if_false]
    by_cases hind : r.indirect = true
    · simp only [if_pos hind] at hs1 ⊢
      obtain ⟨s2, h2, hs2⟩ := mainStep_defer hexec hs1
      exact ⟨s2, h2, hs1.fsm, hs2.fsm, mainStep_execute hexec hs2⟩
    · simp only [if_neg hind] at hs1 ⊢
      obtain ⟨s2, h2, hs2⟩ := mainStep_execute hexec hs1
      exact ⟨s2, h2, hs1.fsm, hs2⟩

end Sys2Proof.Transitions
end

section
/-! The words of the memory-reference orders (spec 30_encoding.md R87): a base word, given by bit 15
and OP, with the operand in the bits below, decodes to the row that OP names. -/

namespace Sys2Proof.OrderWords

open Sys2Proof.Machine Sys2Proof.Encoding

/-! ### Fields of an order's word -/

/-- Which field of the format a bit of the word belongs to (R81). -/
theorem encodeOrder_getLsbD (ind : Bool) (op : BitVec 4) (d : BitVec 11) (i : Nat) :
    (encodeOrder ind op d).getLsbD i =
      if i < 11 then d.getLsbD i
      else if i < 15 then op.getLsbD (i - 11) else decide (i = 15) && ind := by
  have hword : (encodeOrder ind op d).getLsbD i =
      (BitVec.ofBool ind ++ op ++ d : BitVec (1 + 4 + 11)).getLsbD i := rfl
  rw [hword, BitVec.getLsbD_append, BitVec.getLsbD_append, BitVec.getLsbD_ofBool]
  by_cases hdata : i < 11
  · simp [hdata]
  · have hop : i - 11 < 4 ↔ i < 15 := by omega
    by_cases hi : i < 15
    · simp [hdata, hop, hi]
    · have hind : i - 11 - 4 = 0 ↔ i = 15 := by omega
      simp [hdata, hop, hi, hind]

theorem encodeOrder_op (ind : Bool) (op : BitVec 4) (d : BitVec 11) :
    (encodeOrder ind op d).extractLsb' 11 4 = op := by
  apply BitVec.eq_of_getLsbD_eq
  intro i hi
  have h15 : 11 + i < 15 := by omega
  simp [encodeOrder_getLsbD, hi, h15]

theorem encodeOrder_bit15 (ind : Bool) (op : BitVec 4) (d : BitVec 11) :
    (encodeOrder ind op d).getLsbD 15 = ind := by
  rw [encodeOrder_getLsbD]
  rfl

theorem encodeOrder_data (ind : Bool) (op : BitVec 4) (d : BitVec 11) :
    (encodeOrder ind op d).extractLsb' 0 11 = d := by
  apply BitVec.eq_of_getLsbD_eq
  intro i hi
  simp [encodeOrder_getLsbD, hi]

/-- The operand stands in the low bits of the base word, which are 0. -/
theorem encodeOrder_or (ind : Bool) (op : BitVec 4) (d : BitVec 11) :
    encodeOrder ind op 0 ||| d.zeroExtend 16 = encodeOrder ind op d := by
  apply BitVec.eq_of_getLsbD_eq
  intro i hi
  simp only [BitVec.getLsbD_or, BitVec.getLsbD_setWidth, encodeOrder_getLsbD, hi]
  by_cases hdata : i < 11
  · simp [hdata]
  · simp [hdata, BitVec.getLsbD_of_ge d i (by omega)]

/-! ### The row that OP names -/

/-- The assigned values of OP and their rows, given bit 15 and the operand (R87). -/
def orderRows : List (BitVec 4 × (Bool → BitVec 11 → Instr)) :=
  [(0x1, fun ind d => if ind then .lwc d else .law d), (0x2, .jmp), (0x4, .dac), (0x5, .xam),
   (0x6, .isz), (0x7, .jms), (0x9, .and), (0xA, .ior), (0xB, .xor), (0xC, .lac), (0xD, .add),
   (0xE, .sub), (0xF, .sam)]

theorem decodeOrder_of_mem_orderRows {w : Word} {op : BitVec 4} {row : Bool → BitVec 11 → Instr}
    (hrow : (op, row) ∈ orderRows) (hop : w.extractLsb' 11 4 = op) :
    decodeOrder w = row (w.getLsbD 15) (w.extractLsb' 0 11) := by
  rw [decodeOrder, hop]
  simp only [orderRows, List.mem_cons, List.not_mem_nil, or_false, Prod.mk.injEq] at hrow
  rcases hrow with h | h | h | h | h | h | h | h | h | h | h | h | h
  all_goals
    obtain ⟨rfl, rfl⟩ := h
    rfl

theorem op_ne_zero_of_mem_orderRows {op : BitVec 4} {row : Bool → BitVec 11 → Instr}
    (hrow : (op, row) ∈ orderRows) : op ≠ 0 := by
  have hall : ∀ e ∈ orderRows, e.1 ≠ 0 := by simp [orderRows]
  exact hall _ hrow

theorem decodeMainWord_encodeOrder {op : BitVec 4} {row : Bool → BitVec 11 → Instr}
    (hrow : (op, row) ∈ orderRows) (ind : Bool) (d : BitVec 11) :
    decodeMainWord (encodeOrder ind op d) = row ind d := by
  have hop := encodeOrder_op ind op d
  have hne : (encodeOrder ind op d).extractLsb' 11 4 ≠ 0 := by
    rw [hop]
    exact op_ne_zero_of_mem_orderRows hrow
  rw [decodeMainWord_of_op_ne_zero hne,
    decodeOrder_of_mem_orderRows hrow hop, encodeOrder_bit15, encodeOrder_data]

/-- The form in which the statements write an order's word. -/
theorem decodeMainWord_base_or {base : Word} {op : BitVec 4} {row : Bool → BitVec 11 → Instr}
    {ind : Bool} {d : BitVec 11} (hbase : base = encodeOrder ind op 0)
    (hrow : (op, row) ∈ orderRows) :
    decodeMainWord (base ||| d.zeroExtend 16) = row ind d := by
  rw [hbase, encodeOrder_or, decodeMainWord_encodeOrder hrow]

end Sys2Proof.OrderWords
end

section
/-! The Execute transition of the fourteen memory-reference orders (spec 41_main_memory_reference.md
R150 to R164): for each order what it reads, tests and stores at EA, and what it leaves in AC and L. -/

namespace Sys2Proof.OrderEffects

open Sys2Proof.Machine Sys2Proof.OrderWords Sys2Proof.Transitions

/-! ### Shapes of an order's effect -/

/-- The state in which the effect of an order runs (R123): EA is set. -/
def atOperand (ind : Bool) (d : BitVec 11) (s : State) : State :=
  s.onMain fun m => { m with ea := operandAddress s ind d }

/-- The state after one breakpoint test at EA (R128). -/
def testedAtEa (k : BreakKind) (s : State) : State :=
  s.onMain (afterTest s.inputs.breakpoints ⟨k, s.main.ea⟩)

/-- A change of the Main registers that does not see the run state: it may be made before or after a
breakpoint test. -/
def CommutesWithTests (g : MainRegs → MainRegs) : Prop :=
  ∀ p b m, g (afterTest p b m) = afterTest p b (g m)

theorem commutesWithTests_id : CommutesWithTests id := fun _ _ _ => rfl

theorem commutesWithTests_setAc (v : Word) :
    CommutesWithTests fun m => { m with ac := v } := fun p b m => (afterTest_setAc p b m v).symm

/-- AC is written and L is kept or toggled. -/
theorem commutesWithTests_toggle (v : Word) (toggles : Bool) :
    CommutesWithTests fun m => { m with ac := v, l := if toggles then !m.l else m.l } :=
  fun p b m => by simp only [afterTest_l, afterTest_setAcL]

@[simp] theorem testedAtEa_ea (k : BreakKind) (s : State) :
    (testedAtEa k s).main.ea = s.main.ea := afterTest_ea _ _ _

theorem readOp_eq_testedAtEa (s : State) :
    readOp s = (memRead s s.main.ea, testedAtEa .read s) := readOp_eq s

theorem writeOp_eq_testedAtEa (v : Word) (s : State) :
    writeOp v s = memWrite (testedAtEa .write s) s.main.ea v := writeOp_eq v s

/-! ### The Execute transition of an order -/

section

variable {i : Instr} {ind : Bool} {d : BitVec 11} {p : Perform} {s : State}

/-- Execute completes what the effect leaves (R123, R127). -/
theorem runOrder_of_perform {t : State} {next : Word} (hfsm : s.main.fsm = .execute)
    (hp : p (atOperand ind d s) = (t, next)) :
    runOrder i ind d p s = .next { t with main := completedMain t [] next } := by
  have hrun := runOrder_execute i ind d p s hfsm
  rw [← atOperand, hp] at hrun
  exact hrun

/-- An order without an access, which changes the registers by `g` and goes on at `next`. -/
theorem runOrder_of_no_access {g : MainRegs → MainRegs} {next : Word} (hfsm : s.main.fsm = .execute)
    (hp : p (atOperand ind d s) = ((atOperand ind d s).onMain g, next)) :
    runOrder i ind d p s = .next (orderNext ind d g [] next s) :=
  runOrder_of_perform hfsm hp

/-- An order that reads its operand, changes the registers by `g` and goes on at `next`. -/
theorem runOrder_of_read {g : MainRegs → MainRegs} {next : Word} (hfsm : s.main.fsm = .execute)
    (hg : CommutesWithTests g)
    (hp : p (atOperand ind d s) = ((testedAtEa .read (atOperand ind d s)).onMain g, next)) :
    runOrder i ind d p s = .next (orderNext ind d g [.read] next s) :=
  (runOrder_of_perform hfsm hp).trans (congrArg _ (orderNext_of_read ind d s g next hg))

/-- What an order that stores `v` at EA answers. -/
def StoresOperand (ind : Bool) (d : BitVec 11) (g : MainRegs → MainRegs)
    (accesses : List BreakKind) (next v : Word) (s : State) (r : Result) : Prop :=
  ∃ t, r = .next t
    ∧ t.main = orderDone ind d g accesses next s
    ∧ storedWord s t (operandAddress s ind d) v
    ∧ onlyMainAndMemory s t

/-- The frame of an order that changes the Main registers to those of `u` and stores `v` at EA. -/
theorem storesOperand_of_perform {g : MainRegs → MainRegs} {accesses : List BreakKind}
    {next v : Word} {u : State} (hfsm : s.main.fsm = .execute) (hu : u = { s with main := u.main })
    (hp : p (atOperand ind d s) = (memWrite u (operandAddress s ind d) v, next))
    (hdone : completedMain u [] next = orderDone ind d g accesses next s) :
    StoresOperand ind d g accesses next v s (runOrder i ind d p s) := by
  have hrun := runOrder_of_perform (i := i) hfsm hp
  rw [completedMain_memWrite, hdone, hu] at hrun
  have hstore : storedWord s
      ((memWrite s (operandAddress s ind d) v).onMain fun _ => orderDone ind d g accesses next s)
      (operandAddress s ind d) v := storedWord_onMain _ (memWrite_storedWord s _ v)
  exact ⟨_, hrun, rfl, hstore, rfl⟩

/-- An order that writes its operand. -/
theorem storesOperand_of_write {next v : Word} (hfsm : s.main.fsm = .execute)
    (hp : p (atOperand ind d s) =
      (memWrite (testedAtEa .write (atOperand ind d s)) (operandAddress s ind d) v, next)) :
    StoresOperand ind d id [.write] next v s (runOrder i ind d p s) :=
  storesOperand_of_perform hfsm rfl hp (completedMain_afterTest (atOperand ind d s) _ [] next)

/-- An order that reads, then writes its operand, and changes the registers by `g`. -/
theorem storesOperand_of_read_write {g : MainRegs → MainRegs} {next v : Word}
    (hfsm : s.main.fsm = .execute) (hg : CommutesWithTests g)
    (hp : p (atOperand ind d s) =
      (memWrite ((testedAtEa .write (testedAtEa .read (atOperand ind d s))).onMain g)
        (operandAddress s ind d) v, next)) :
    StoresOperand ind d g [.read, .write] next v s (runOrder i ind d p s) := by
  have hea : (testedAtEa .read (atOperand ind d s)).main.ea = operandAddress s ind d :=
    testedAtEa_ea _ _
  refine storesOperand_of_perform hfsm rfl hp ?_
  rw [testedAtEa, hea]
  exact orderDone_of_read_write ind d s g next hg

end

/-! ### The effect of each order -/

/-- The two places at which an order goes on (R126). -/
theorem skip_or_next {p q : Prop} [Decidable p] [Decidable q] (h : p ↔ q) (s : State) :
    (if p then pcSkip s else pcNext s) = s.main.pc + (if q then 2 else 1) := by
  simp only [h, pcSkip, pcNext]
  split <;> rfl

theorem performLaw_eq (n : BitVec 11) (s : State) :
    performLaw n s =
      (s.onMain fun m => { m with ac := BitVec.ofNat 16 n.toNat }, s.main.pc + 1) := by
  have hac : n.zeroExtend 16 = BitVec.ofNat 16 n.toNat := by bv_omega
  rw [performLaw, hac]
  rfl

theorem performLwc_eq (n : BitVec 11) (s : State) :
    performLwc n s =
      (s.onMain fun m => { m with ac := BitVec.ofNat 16 (2 ^ 16 - n.toNat) }, s.main.pc + 1) := by
  have hac : -(n.zeroExtend 16) = BitVec.ofNat 16 (2 ^ 16 - n.toNat) := by bv_omega
  rw [performLwc, hac]
  rfl

theorem performDac_eq (s : State) :
    performDac s =
      (memWrite (testedAtEa .write s) s.main.ea s.main.ac, s.main.pc + 1) := by
  rw [performDac, writeOp_eq_testedAtEa]
  rfl

theorem performXam_eq (s : State) :
    performXam s =
      (memWrite ((testedAtEa .write (testedAtEa .read s)).onMain fun m =>
        { m with ac := memRead s s.main.ea }) s.main.ea s.main.ac, s.main.pc + 1) := by
  simp only [performXam, readOp_eq_testedAtEa, writeOp_eq_testedAtEa, testedAtEa_ea]
  rfl

theorem performIsz_eq (s : State) :
    performIsz s =
      (memWrite (testedAtEa .write (testedAtEa .read s)) s.main.ea
          (BitVec.ofNat 16 ((memRead s s.main.ea).toNat + 1)),
        s.main.pc + (if memRead s s.main.ea = 0xFFFF then 2 else 1)) := by
  have hzero : memRead s s.main.ea + 1 = 0 ↔ memRead s s.main.ea = 0xFFFF := by bv_omega
  have hinc : memRead s s.main.ea + 1 = BitVec.ofNat 16 ((memRead s s.main.ea).toNat + 1) := by
    bv_omega
  simp only [performIsz, readOp_eq_testedAtEa, writeOp_eq_testedAtEa, testedAtEa_ea,
    skip_or_next hzero]
  rw [hinc]

theorem performJms_eq (s : State) :
    performJms s =
      (memWrite (testedAtEa .write s) s.main.ea (s.mask (s.main.pc + 1)), s.main.ea + 1) := by
  rw [performJms, writeOp_eq_testedAtEa]
  rfl

theorem performLogic_eq (f : Word → Word → Word) (s : State) :
    performLogic f s =
      ((testedAtEa .read s).onMain fun m => { m with ac := f s.main.ac (memRead s s.main.ea) },
        s.main.pc + 1) := by
  rw [performLogic, readOp_eq_testedAtEa]
  rfl

/-- An order that reads its operand and leaves a value in AC alone. -/
theorem runOrder_performLogic (i : Instr) (ind : Bool) (d : BitVec 11) (f : Word → Word → Word)
    {s : State} (hfsm : s.main.fsm = .execute) :
    runOrder i ind d (performLogic f) s =
      .next (orderNext ind d
        (fun m => { m with ac := f s.main.ac (memRead s (operandAddress s ind d)) })
        [.read] (s.main.pc + 1) s) :=
  runOrder_of_read hfsm (commutesWithTests_setAc _) (performLogic_eq f _)

theorem performSam_eq (s : State) :
    performSam s =
      (testedAtEa .read s,
        s.main.pc + (if s.main.ac.toNat = (memRead s s.main.ea).toNat then 2 else 1)) := by
  rw [performSam, readOp_eq_testedAtEa, skip_or_next BitVec.toNat_inj.symm]

/-- An arithmetic effect that leaves `v` in AC and toggles L or keeps it. -/
theorem performArith_eq {f : Accumulator → Word → Accumulator} {v : Word} {toggles : Bool}
    (s : State) (hf : f s.accumulator (memRead s s.main.ea) =
      ⟨v, if toggles then !s.main.l else s.main.l⟩) :
    performArith f s =
      ((testedAtEa .read s).onMain fun m =>
        { m with ac := v, l := if toggles then !m.l else m.l }, s.main.pc + 1) := by
  have hl : (testedAtEa .read s).main.l = s.main.l := afterTest_l _ _ _
  simp only [performArith, readOp_eq_testedAtEa, hf, ← hl]
  rfl

/-! ### ADD and SUB in numbers -/

/-- The carry or borrow bit of a 17-bit result. -/
theorem bit16_eq_decide_le (x : BitVec 17) : x.getLsbD 16 = decide (2 ^ 16 ≤ x.toNat) := by
  have hx : x.toNat / 2 ^ 16 % 2 = 1 ↔ 2 ^ 16 ≤ x.toNat := by omega
  rw [BitVec.getLsbD, Nat.testBit_eq_decide_div_mod_eq]
  exact decide_eq_decide.mpr hx

theorem xor_eq_toggle (l carry : Bool) : xor l carry = if carry then !l else l := by
  cases carry <;> simp

/-- R162: the low 16 bits of the sum; a sum of at least 2 ^ 16 toggles L. -/
theorem addLink_eq (a : Accumulator) (m : Word) :
    addLink a m =
      ⟨BitVec.ofNat 16 ((a.ac.toNat + m.toNat) % 2 ^ 16),
        if decide (2 ^ 16 ≤ a.ac.toNat + m.toNat) then !a.l else a.l⟩ := by
  have hsum : (a.ac.zeroExtend 17 + m.zeroExtend 17).toNat = a.ac.toNat + m.toNat := by bv_omega
  have hac : (a.ac.zeroExtend 17 + m.zeroExtend 17).extractLsb' 0 16 =
      BitVec.ofNat 16 ((a.ac.toNat + m.toNat) % 2 ^ 16) := by
    apply BitVec.eq_of_toNat_eq
    simp [BitVec.extractLsb'_toNat, hsum]
  simp only [addLink, hac, bit16_eq_decide_le, hsum, xor_eq_toggle]

/-- R163: the low 16 bits of the difference; a word greater than AC toggles L. -/
theorem subLink_eq (a : Accumulator) (m : Word) :
    subLink a m =
      ⟨BitVec.ofNat 16 ((2 ^ 16 + a.ac.toNat - m.toNat) % 2 ^ 16),
        if decide (a.ac.toNat < m.toNat) then !a.l else a.l⟩ := by
  have hdiff : (a.ac.zeroExtend 17 - m.zeroExtend 17).toNat =
      (2 ^ 17 + a.ac.toNat - m.toNat) % 2 ^ 17 := by bv_omega
  have hborrow : 2 ^ 16 ≤ (2 ^ 17 + a.ac.toNat - m.toNat) % 2 ^ 17 ↔ a.ac.toNat < m.toNat := by
    bv_omega
  have hac : (a.ac.zeroExtend 17 - m.zeroExtend 17).extractLsb' 0 16 =
      BitVec.ofNat 16 ((2 ^ 16 + a.ac.toNat - m.toNat) % 2 ^ 16) := by
    apply BitVec.eq_of_toNat_eq
    simp [BitVec.extractLsb'_toNat, hdiff]
    omega
  simp only [subLink, hac, bit16_eq_decide_le, hdiff, hborrow, xor_eq_toggle]

/-! ### The obligations -/

/-- Settles O7: neither order has an access, so that `performLaw_eq` and `performLwc_eq` are all they
do in Execute. -/
theorem immediateLoads : Obligations.ImmediateLoads := by
  intro n s
  refine ⟨?law, ?lwc, fun hfsm => ⟨?fetchLaw, ?fetchLwc⟩, fun hfsm => ⟨?execLaw, ?execLwc⟩⟩
  case law =>
    exact decodeMainWord_base_or (op := 0x1) (ind := false) rfl (List.mem_cons_self ..)
  case lwc =>
    exact decodeMainWord_base_or (op := 0x1) (ind := true) rfl (List.mem_cons_self ..)
  case fetchLaw => exact runOrder_fetch _ _ _ _ s hfsm
  case fetchLwc => exact runOrder_fetch _ _ _ _ s hfsm
  case execLaw => exact runOrder_of_no_access hfsm (performLaw_eq n _)
  case execLwc => exact runOrder_of_no_access hfsm (performLwc_eq n _)

/-- Settles O8: JMP has no access; SAM reads, and `performSam_eq` says where it goes on. -/
theorem jumpAndSkipIfEqual : Obligations.JumpAndSkipIfEqual := by
  intro ind d s
  refine ⟨?jmpWord, ?samWord, fun hfsm => ⟨?jmp, ?sam⟩⟩
  case jmpWord =>
    exact decodeMainWord_base_or (op := 0x2) (by cases ind <;> rfl) (by simp [orderRows])
  case samWord =>
    exact decodeMainWord_base_or (op := 0xF) (by cases ind <;> rfl) (by simp [orderRows])
  case jmp => exact runOrder_of_no_access hfsm rfl
  case sam => exact runOrder_of_read hfsm commutesWithTests_id (performSam_eq _)

/-- Settles O9: DAC writes its operand; XAM reads it, then writes it. -/
theorem depositAndExchange : Obligations.DepositAndExchange := by
  intro ind d s
  refine ⟨?dacWord, ?xamWord, fun hfsm => ⟨?dac, ?xam⟩⟩
  case dacWord =>
    exact decodeMainWord_base_or (op := 0x4) (by cases ind <;> rfl) (by simp [orderRows])
  case xamWord =>
    exact decodeMainWord_base_or (op := 0x5) (by cases ind <;> rfl) (by simp [orderRows])
  case dac => exact storesOperand_of_write hfsm (performDac_eq _)
  case xam =>
    exact storesOperand_of_read_write hfsm (commutesWithTests_setAc _) (performXam_eq _)

/-- Settles O10: ISZ reads its operand, then writes it, whether it skips or not. -/
theorem incrementSkipsOnZero : Obligations.IncrementSkipsOnZero := by
  intro ind d s
  refine ⟨?word, fun hfsm => ?isz⟩
  case word =>
    exact decodeMainWord_base_or (op := 0x6) (by cases ind <;> rfl) (by simp [orderRows])
  case isz =>
    exact storesOperand_of_read_write hfsm commutesWithTests_id (performIsz_eq _)

/-- Settles O11: JMS writes its operand and goes on after it. -/
theorem subroutineJumpSavesReturn : Obligations.SubroutineJumpSavesReturn := by
  intro ind d s
  refine ⟨?word, fun hfsm => ?jms⟩
  case word =>
    exact decodeMainWord_base_or (op := 0x7) (by cases ind <;> rfl) (by simp [orderRows])
  case jms => exact storesOperand_of_write hfsm (performJms_eq _)

/-- Settles O12: the four orders differ in the operation of `runOrder_performLogic` alone. -/
theorem logicOrdersWriteAccumulator : Obligations.LogicOrdersWriteAccumulator := by
  intro ind d s _ _
  refine ⟨?andWord, ?iorWord, ?xorWord, ?lacWord, fun hfsm => ⟨?and, ?ior, ?xor, ?lac⟩⟩
  case andWord =>
    exact decodeMainWord_base_or (op := 0x9) (by cases ind <;> rfl) (by simp [orderRows])
  case iorWord =>
    exact decodeMainWord_base_or (op := 0xA) (by cases ind <;> rfl) (by simp [orderRows])
  case xorWord =>
    exact decodeMainWord_base_or (op := 0xB) (by cases ind <;> rfl) (by simp [orderRows])
  case lacWord =>
    exact decodeMainWord_base_or (op := 0xC) (by cases ind <;> rfl) (by simp [orderRows])
  all_goals exact runOrder_performLogic _ ind d _ hfsm

/-- Settles O13: ADD and SUB read their operand; `addLink_eq` and `subLink_eq` are what they leave in
AC and L. -/
theorem addSubtractToggleLink : Obligations.AddSubtractToggleLink := by
  intro ind d s _ _ _
  refine ⟨?addWord, ?subWord, fun hfsm => ⟨?add, ?sub⟩⟩
  case addWord =>
    exact decodeMainWord_base_or (op := 0xD) (by cases ind <;> rfl) (by simp [orderRows])
  case subWord =>
    exact decodeMainWord_base_or (op := 0xE) (by cases ind <;> rfl) (by simp [orderRows])
  case add =>
    exact runOrder_of_read hfsm (commutesWithTests_toggle _ _) (performArith_eq _ (addLink_eq _ _))
  case sub =>
    exact runOrder_of_read hfsm (commutesWithTests_toggle _ _) (performArith_eq _ (subLink_eq _ _))

end Sys2Proof.OrderEffects
end

section
/-! How an operate instruction completes, and class 1 (spec 42_main_operate.md R180 to R194): each
phase of R180 as an equation, and the effect of every combination of bits on the Main registers. -/

namespace Sys2Proof.OperateEffects

open Sys2Proof.Machine

/-! ### The shape of an operate instruction -/

section

variable {i : Instr} {p : Perform} {f : MainRegs → MainRegs} {s t : State} {next : Word}

/-- An operate instruction whose effect changes the Main registers by `f`, and the rest of the state
as from `s` to `t`, completes as R121 and R127 say. -/
theorem runOperate_of_perform (hfsm : s.main.fsm = .fetch) (hf : ∀ m, (f m).fsm = m.fsm)
    (hmain : t.main = s.main)
    (hp : p (latch i .fetch s) = (t.onMain fun m => f { m with ir := i }, next)) :
    runOperate i p s = .next (operateDone i f next t) := by
  have hfetch : (t.onMain fun m => f { m with ir := i }).main.fsm = .fetch := by
    simp only [onMain_main, hf, hmain, hfsm]
  rw [runOperate_eq, hp, complete_of_fetch _ _ hfetch]
  rfl

/-- Only what the effect does to the registers that the instruction finds is seen. -/
theorem operateDone_congr {g : MainRegs → MainRegs}
    (h : f { s.main with ir := i } = g { s.main with ir := i }) :
    operateDone i f next s = operateDone i g next s := by
  simp only [operateDone, State.onMain, h]

/-- In Fetch the latch writes IR alone (R121). -/
theorem latch_of_fetch (hfsm : s.main.fsm = .fetch) :
    latch i .fetch s = s.onMain fun m => { m with ir := i } := by
  simp only [latch, State.onMain, hfsm]

end

/-! ### The phases of class 1 -/

/-- 0xFFFF minus a word is its complement. -/
theorem ones_sub_eq_not (v : Word) : 0xFFFF - v = ~~~v := BitVec.allOnes_sub_eq_not v

/-- Only 0xFFFF wraps to 0. -/
theorem add_one_eq_zero_iff (v : Word) : v + 1 = 0 ↔ v = 0xFFFF := by
  bv_omega

theorem oprClear_eq (cla cll : Bool) (a : Accumulator) :
    oprClear cla cll a = ⟨if cla then 0 else a.ac, !cll && a.l⟩ := by
  cases cll <;> rfl

theorem oprComplement_eq (cma cml : Bool) (a : Accumulator) :
    oprComplement cma cml a = ⟨if cma then 0xFFFF - a.ac else a.ac, xor a.l cml⟩ := by
  rw [ones_sub_eq_not]
  cases cml <;> simp [oprComplement]

theorem oprIncrement_eq (iac : Bool) (a : Accumulator) :
    oprIncrement iac a =
      ⟨if iac then (if iac && a.ac == 0xFFFF then 0 else a.ac + 1) else a.ac,
        xor a.l (iac && a.ac == 0xFFFF)⟩ := by
  cases iac with
  | false => simp [oprIncrement]
  | true =>
    by_cases hones : a.ac = 0xFFFF
    · simp [oprIncrement, hones]
    · have hbeq : (a.ac == 0xFFFF) = false := beq_false_of_ne hones
      simp only [oprIncrement, add_one_eq_zero_iff, hones, hbeq, if_true, if_false, Bool.and_false,
        Bool.xor_false, Bool.false_eq_true]

theorem oprOrSwitches_eq (oda : Bool) (ds : Word) (a : Accumulator) :
    oprOrSwitches oda ds a = ⟨if oda then a.ac ||| ds else a.ac, a.l⟩ := by
  cases oda <;> rfl

/-! ### The effect of class 1 -/

/-- What the phases and the halt do to the Main registers (R180). -/
def oprEffect (nh oda cml cll iac cma cla : Bool) (m : MainRegs) : MainRegs :=
  { m with
    ac := (oprPhases oda cml cll iac cma cla m.ds ⟨m.ac, m.l⟩).ac
    l := (oprPhases oda cml cll iac cma cla m.ds ⟨m.ac, m.l⟩).l
    mstate := if nh then m.mstate else .halted }

section

variable {i : Instr} {nh oda cml cll iac cma cla : Bool} {s : State}

theorem performOpr_eq :
    performOpr nh oda cml cll iac cma cla s =
      (s.onMain (oprEffect nh oda cml cll iac cma cla), s.main.pc + 1) := by
  cases nh <;> rfl

/-- A class 1 instruction, under any spelling `i`. -/
theorem runOperate_performOpr (hfsm : s.main.fsm = .fetch) :
    runOperate i (performOpr nh oda cml cll iac cma cla) s =
      .next (operateDone i (oprEffect nh oda cml cll iac cma cla) (s.main.pc + 1) s) := by
  refine runOperate_of_perform hfsm (fun _ => rfl) rfl ?_
  rw [performOpr_eq, latch_of_fetch hfsm]
  rfl

/-- A class 1 instruction whose bits together do `f` to the registers. -/
theorem runOperate_performOpr_of_effect {f : MainRegs → MainRegs} (hfsm : s.main.fsm = .fetch)
    (hf : ∀ m, oprEffect nh oda cml cll iac cma cla m = f m) :
    runOperate i (performOpr nh oda cml cll iac cma cla) s =
      .next (operateDone i f (s.main.pc + 1) s) := by
  rw [runOperate_performOpr hfsm, operateDone_congr (hf _)]

end

/-! ### The obligations -/

/-- Settles O16: the phases of R180, each by its equation. -/
theorem operatePhases : Obligations.OperatePhases := by
  intro nh oda cml cll iac cma cla s _ _ _ _ _ hfsm
  refine (runOperate_performOpr hfsm).trans (congrArg _ (operateDone_congr ?_))
  simp only [oprEffect, oprPhases, oprClear_eq, oprComplement_eq, oprIncrement_eq,
    oprOrSwitches_eq]
  rfl

/-- Settles O17: the bits of each name (R105) and what they do together. -/
theorem namedOperatesHltToCoa : Obligations.NamedOperatesHltToCoa := by
  refine ⟨by decide, fun s hfsm => ⟨?hlt, ?nop, ?cla, ?cma, ?sta, ?iac, ?coa⟩⟩
  case hlt => exact runOperate_performOpr_of_effect hfsm fun _ => rfl
  case nop => exact runOperate_performOpr_of_effect hfsm fun _ => rfl
  case cla => exact runOperate_performOpr_of_effect hfsm fun _ => rfl
  case cma => exact runOperate_performOpr_of_effect hfsm fun m => by rw [ones_sub_eq_not]; rfl
  case sta =>
    refine runOperate_performOpr_of_effect hfsm fun m => ?_
    have hones : ~~~(0 : Word) = 0xFFFF := BitVec.not_zero
    exact congrArg (fun v => { m with ac := v }) hones
  case iac =>
    refine runOperate_performOpr_of_effect hfsm fun m => ?_
    simp only [← add_one_eq_zero_iff]
    rfl
  case coa => exact runOperate_performOpr_of_effect hfsm fun _ => rfl

/-- Settles O18: the bits of each name (R105) and what they do together; the complement plus 1 is
the negation, and wraps just for 0. -/
theorem namedOperatesCiaToCal : Obligations.NamedOperatesCiaToCal := by
  refine ⟨by decide, fun s hfsm => ⟨?cia, ?cll, ?cml, ?stl, ?oda, ?lda, ?cal⟩⟩
  case cia =>
    refine runOperate_performOpr_of_effect hfsm fun m => ?_
    have hneg : 0 - m.ac = ~~~m.ac + 1 := (BitVec.zero_sub _).trans (BitVec.neg_eq_not_add _)
    have hwraps : m.ac = 0 ↔ ~~~m.ac + 1 = 0 := by rw [← hneg]; bv_omega
    simp only [hneg, hwraps]
    rfl
  case cll => exact runOperate_performOpr_of_effect hfsm fun _ => rfl
  case cml => exact runOperate_performOpr_of_effect hfsm fun _ => rfl
  case stl => exact runOperate_performOpr_of_effect hfsm fun _ => rfl
  case oda => exact runOperate_performOpr_of_effect hfsm fun _ => rfl
  case lda =>
    refine runOperate_performOpr_of_effect hfsm fun m => ?_
    have hds : (0 : Word) ||| m.ds = m.ds := BitVec.zero_or
    exact congrArg (fun v => { m with ac := v }) hds
  case cal => exact runOperate_performOpr_of_effect hfsm fun _ => rfl

end Sys2Proof.OperateEffects
end

section
/-! Class 2 (spec 42_main_operate.md R195 to R200): a count of single positions as one rotate of the
17-bit ring or one shift, and the display-on flag. -/

namespace Sys2Proof.ShiftEffects

open Sys2Proof.Machine Sys2Proof.OperateEffects

/-! ### The shape of a class 2 instruction -/

/-- What the count of single positions does to the Main registers (R195). -/
def shiftEffect (step1 : Accumulator → Accumulator) (cnt : BitVec 2) (m : MainRegs) : MainRegs :=
  { m with
    ac := (iterate step1 cnt.toNat ⟨m.ac, m.l⟩).ac
    l := (iterate step1 cnt.toNat ⟨m.ac, m.l⟩).l }

theorem performShift_eq (step1 : Accumulator → Accumulator) (on : Bool) (cnt : BitVec 2)
    (s : State) :
    performShift step1 on cnt s =
      (({ s with disp := displayOn on s.disp } : State).onMain (shiftEffect step1 cnt),
        s.main.pc + 1) := by
  rw [performShift, whenSet_resume_eq]
  rfl

/-- A class 2 instruction whose single positions together do `f` to the registers. -/
theorem runOperate_performShift_of_effect {i : Instr} {step1 : Accumulator → Accumulator}
    {on : Bool} {cnt : BitVec 2} {s : State} {f : MainRegs → MainRegs}
    (hfsm : s.main.fsm = .fetch)
    (hf : shiftEffect step1 cnt { s.main with ir := i } = f { s.main with ir := i }) :
    runOperate i (performShift step1 on cnt) s =
      .next (operateDone i f (s.main.pc + 1) { s with disp := displayOn on s.disp }) := by
  have hrun : runOperate i (performShift step1 on cnt) s =
      .next (operateDone i (shiftEffect step1 cnt) (s.main.pc + 1)
        { s with disp := displayOn on s.disp }) := by
    refine runOperate_of_perform hfsm (fun _ => rfl) rfl ?_
    rw [performShift_eq, latch_of_fetch hfsm]
    rfl
  exact hrun.trans (congrArg _ (operateDone_congr hf))

/-- What `n` single positions do to a view of the accumulator on which one position acts as `g` at
1, when the positions of `g` add up. -/
theorem view_iterate {α : Type} {view : Accumulator → α} {f : Accumulator → Accumulator}
    {g : α → Nat → α} (hf : ∀ a, view (f a) = g (view a) 1) (hzero : ∀ x, g x 0 = x)
    (hsucc : ∀ x n, g (g x 1) n = g x (n + 1)) (n : Nat) (a : Accumulator) :
    view (iterate f n a) = g (view a) n := by
  induction n generalizing a with
  | zero => exact (hzero _).symm
  | succ n ih => rw [iterate, ih, hf, hsucc]

/-! ### Rotates -/

/-- L and AC as one ring, L above bit 15 (R196). -/
def ring (a : Accumulator) : BitVec 17 := BitVec.ofBool a.l ++ a.ac

theorem ring_extract_ac (a : Accumulator) : (ring a).extractLsb' 0 16 = a.ac :=
  BitVec.extractLsb'_append_eq_right

theorem ring_getLsbD (a : Accumulator) (i : Nat) :
    (ring a).getLsbD i = if i < 16 then a.ac.getLsbD i else decide (i = 16) && a.l := by
  rw [ring, BitVec.getLsbD_append, BitVec.getLsbD_ofBool]
  by_cases hac : i < 16
  · simp [hac]
  · have hlink : i - 16 = 0 ↔ i = 16 := by omega
    simp [hac, hlink]

theorem ring_bit16 (a : Accumulator) : (ring a).getLsbD 16 = a.l := by
  rw [ring_getLsbD]
  rfl

/-- A bit of the ring comes from the position `n` below it, around the ring. -/
theorem ring_rotateLeft_getLsbD (x : BitVec 17) (n : Nat) {i : Nat} (hi : i < 17) :
    (x.rotateLeft n).getLsbD i = x.getLsbD ((i + (17 - n % 17)) % 17) := by
  rw [BitVec.getLsbD_rotateLeft]
  by_cases hwrap : i < n % 17
  · have hindex : (i + (17 - n % 17)) % 17 = 17 - n % 17 + i := by omega
    simp only [hwrap, hindex, decide_true, cond_true]
  · have hindex : (i + (17 - n % 17)) % 17 = i - n % 17 := by omega
    simp only [hwrap, hi, hindex, decide_true, decide_false, cond_false, Bool.true_and]

/-- A bit of the ring comes from the position `n` above it, around the ring. -/
theorem ring_rotateRight_getLsbD (x : BitVec 17) (n : Nat) {i : Nat} (hi : i < 17) :
    (x.rotateRight n).getLsbD i = x.getLsbD ((i + n % 17) % 17) := by
  rw [BitVec.getLsbD_rotateRight]
  by_cases hwrap : i < 17 - n % 17
  · have hindex : (i + n % 17) % 17 = n % 17 + i := by omega
    simp only [hwrap, hindex, decide_true, cond_true]
  · have hindex : (i + n % 17) % 17 = i - (17 - n % 17) := by omega
    simp only [hwrap, hi, hindex, decide_true, decide_false, cond_false, Bool.true_and]

/-- The bits of AC move up, and L moves into bit 0 (R196). -/
theorem rotateLeft1_ac_getLsbD (a : Accumulator) {i : Nat} (hi : i < 16) :
    (rotateLeft1 a).ac.getLsbD i = if i = 0 then a.l else a.ac.getLsbD (i - 1) := by
  have hlink : (if a.l then 1 else 0 : Word).getLsbD i = (decide (i = 0) && a.l) := by
    cases a.l <;> simp
  rw [rotateLeft1, BitVec.getLsbD_or, BitVec.getLsbD_shiftLeft, hlink]
  by_cases hzero : i = 0 <;> simp [hzero, hi]

/-- The bits of AC move down, and L moves into bit 15 (R197). -/
theorem rotateRight1_ac_getLsbD (a : Accumulator) (i : Nat) :
    (rotateRight1 a).ac.getLsbD i = if i = 15 then a.l else a.ac.getLsbD (i + 1) := by
  have hlink : (if a.l then 0x8000 else 0 : Word).getLsbD i = (decide (i = 15) && a.l) := by
    cases a.l with
    | false => simp
    | true =>
      have htop : (BitVec.twoPow 16 15).getLsbD i = decide (i = 15) := by simp [eq_comm]
      exact htop.trans (Bool.and_true _).symm
  rw [rotateRight1, BitVec.getLsbD_or, BitVec.getLsbD_ushiftRight, hlink, Nat.add_comm]
  by_cases htop : i = 15 <;> simp [htop]

/-- R196: one position to the left. -/
theorem ring_rotateLeft1 (a : Accumulator) : ring (rotateLeft1 a) = (ring a).rotateLeft 1 := by
  apply BitVec.eq_of_getLsbD_eq
  intro i hi
  rw [ring_rotateLeft_getLsbD _ _ hi, ring_getLsbD, ring_getLsbD]
  obtain rfl | ⟨hlow, hpos⟩ | rfl : i = 0 ∨ (i < 16 ∧ i ≠ 0) ∨ i = 16 := by omega
  · exact rotateLeft1_ac_getLsbD a (by decide)
  · have hindex : (i + (17 - 1 % 17)) % 17 = i - 1 := by omega
    have hlow' : i - 1 < 16 := by omega
    simp only [hlow, hindex, hlow', if_true, rotateLeft1_ac_getLsbD, hpos, if_false]
  · rfl

/-- R197: one position to the right. -/
theorem ring_rotateRight1 (a : Accumulator) : ring (rotateRight1 a) = (ring a).rotateRight 1 := by
  apply BitVec.eq_of_getLsbD_eq
  intro i hi
  rw [ring_rotateRight_getLsbD _ _ hi, ring_getLsbD, ring_getLsbD]
  obtain hlow | rfl | rfl : i < 15 ∨ i = 15 ∨ i = 16 := by omega
  · have hindex : (i + 1 % 17) % 17 = i + 1 := by omega
    have hi16 : i < 16 := by omega
    have hnext : i + 1 < 16 := by omega
    simp only [hi16, hindex, hnext, if_true, rotateRight1_ac_getLsbD, hlow.ne, if_false]
  · exact rotateRight1_ac_getLsbD a 15
  · rfl

theorem rotateLeft_one_rotateLeft (x : BitVec 17) (n : Nat) :
    (x.rotateLeft 1).rotateLeft n = x.rotateLeft (n + 1) := by
  apply BitVec.eq_of_getLsbD_eq
  intro i hi
  rw [ring_rotateLeft_getLsbD _ _ hi, ring_rotateLeft_getLsbD _ _ (Nat.mod_lt _ (by decide)),
    ring_rotateLeft_getLsbD _ _ hi]
  exact congrArg x.getLsbD (by omega)

theorem rotateRight_one_rotateRight (x : BitVec 17) (n : Nat) :
    (x.rotateRight 1).rotateRight n = x.rotateRight (n + 1) := by
  apply BitVec.eq_of_getLsbD_eq
  intro i hi
  rw [ring_rotateRight_getLsbD _ _ hi, ring_rotateRight_getLsbD _ _ (Nat.mod_lt _ (by decide)),
    ring_rotateRight_getLsbD _ _ hi]
  exact congrArg x.getLsbD (by omega)

theorem rotateLeft_zero (x : BitVec 17) : x.rotateLeft 0 = x := by
  simp [BitVec.rotateLeft_def, BitVec.ushiftRight_eq_zero]

theorem rotateRight_zero (x : BitVec 17) : x.rotateRight 0 = x := by
  simp [BitVec.rotateRight_def]

/-- R196: `n` positions to the left. -/
theorem ring_iterate_rotateLeft1 (n : Nat) (a : Accumulator) :
    ring (iterate rotateLeft1 n a) = (ring a).rotateLeft n :=
  view_iterate ring_rotateLeft1 rotateLeft_zero rotateLeft_one_rotateLeft n a

/-- R197: `n` positions to the right. -/
theorem ring_iterate_rotateRight1 (n : Nat) (a : Accumulator) :
    ring (iterate rotateRight1 n a) = (ring a).rotateRight n :=
  view_iterate ring_rotateRight1 rotateRight_zero rotateRight_one_rotateRight n a

/-- A rotate leaves in AC and L the two parts of the ring that it leaves. -/
theorem shiftEffect_of_ring {step1 : Accumulator → Accumulator} {cnt : BitVec 2} {m : MainRegs}
    {turned : BitVec 17} (hring : ring (iterate step1 cnt.toNat ⟨m.ac, m.l⟩) = turned) :
    shiftEffect step1 cnt m =
      { m with ac := turned.extractLsb' 0 16, l := turned.getLsbD 16 } := by
  rw [shiftEffect, ← hring, ring_extract_ac, ring_bit16]

/-! ### Shifts -/

/-- The sign kept and the fifteen bits below it shifted left (R198). -/
def shiftBelowSign (v : Word) (n : Nat) : Word :=
  v.extractLsb' 15 1 ++ (v.extractLsb' 0 15 <<< n)

theorem shiftBelowSign_sign (v : Word) (n : Nat) :
    (shiftBelowSign v n).extractLsb' 15 1 = v.extractLsb' 15 1 :=
  BitVec.extractLsb'_append_eq_left

theorem shiftBelowSign_low (v : Word) (n : Nat) :
    (shiftBelowSign v n).extractLsb' 0 15 = v.extractLsb' 0 15 <<< n :=
  BitVec.extractLsb'_append_eq_right

theorem shiftBelowSign_zero (v : Word) : shiftBelowSign v 0 = v := by
  rw [shiftBelowSign, BitVec.shiftLeft_zero]
  exact BitVec.extractLsb'_append_extractLsb'

theorem shiftBelowSign_one_shiftBelowSign (v : Word) (n : Nat) :
    shiftBelowSign (shiftBelowSign v 1) n = shiftBelowSign v (n + 1) := by
  rw [shiftBelowSign, shiftBelowSign_sign, shiftBelowSign_low, ← BitVec.shiftLeft_add,
    Nat.add_comm 1 n, ← shiftBelowSign]

/-- R198 in numbers: the sign, and the low fifteen bits times `2 ^ n` modulo `2 ^ 15`. -/
theorem shiftBelowSign_eq (v : Word) (n : Nat) :
    shiftBelowSign v n =
      BitVec.ofNat 16 (v.toNat / 2 ^ 15 * 2 ^ 15 + v.toNat % 2 ^ 15 * 2 ^ n % 2 ^ 15) := by
  apply BitVec.eq_of_toNat_eq
  have hsign : (v.extractLsb' 15 1).toNat = v.toNat / 2 ^ 15 := by
    simp [BitVec.extractLsb'_toNat, Nat.shiftRight_eq_div_pow]
    omega
  have hlow : (v.extractLsb' 0 15 <<< n).toNat = v.toNat % 2 ^ 15 * 2 ^ n % 2 ^ 15 := by
    simp [BitVec.toNat_shiftLeft, BitVec.extractLsb'_toNat, Nat.shiftLeft_eq]
  have hlt : v.toNat % 2 ^ 15 * 2 ^ n % 2 ^ 15 < 2 ^ 15 := Nat.mod_lt _ (by decide)
  rw [shiftBelowSign, BitVec.toNat_append, hsign, hlow, ← Nat.shiftLeft_add_eq_or_of_lt hlt,
    Nat.shiftLeft_eq, BitVec.toNat_ofNat]
  omega

theorem shiftLeft1_eq (a : Accumulator) : shiftLeft1 a = ⟨shiftBelowSign a.ac 1, a.l⟩ := by
  refine congrArg (Accumulator.mk · a.l) (BitVec.eq_of_getLsbD_eq fun i hi => ?_)
  rw [shiftBelowSign, BitVec.getLsbD_append]
  interval_cases i <;> simp

theorem shiftRight1_eq (a : Accumulator) : shiftRight1 a = ⟨a.ac.sshiftRight 1, a.l⟩ := by
  refine congrArg (Accumulator.mk · a.l) (BitVec.eq_of_getLsbD_eq fun i hi => ?_)
  rw [BitVec.getLsbD_sshiftRight]
  interval_cases i <;> simp [BitVec.msb_eq_getLsbD_last]

/-- Positions that act as `g` on AC and leave L alone. -/
theorem iterate_eq_of_ac {f : Accumulator → Accumulator} {g : Word → Nat → Word}
    (hf : ∀ a, f a = ⟨g a.ac 1, a.l⟩) (hzero : ∀ v, g v 0 = v)
    (hsucc : ∀ v n, g (g v 1) n = g v (n + 1)) (n : Nat) (a : Accumulator) :
    iterate f n a = ⟨g a.ac n, a.l⟩ :=
  view_iterate (view := id) (g := fun a n => ⟨g a.ac n, a.l⟩) hf
    (fun a => by rw [hzero]) (fun a n => by rw [hsucc]) n a

/-- R198: `n` positions to the left, L untouched. -/
theorem iterate_shiftLeft1 (n : Nat) (a : Accumulator) :
    iterate shiftLeft1 n a = ⟨shiftBelowSign a.ac n, a.l⟩ :=
  iterate_eq_of_ac shiftLeft1_eq shiftBelowSign_zero shiftBelowSign_one_shiftBelowSign n a

/-- R199: `n` positions to the right, L untouched. -/
theorem iterate_shiftRight1 (n : Nat) (a : Accumulator) :
    iterate shiftRight1 n a = ⟨a.ac.sshiftRight n, a.l⟩ := by
  have hsucc (v : Word) (n : Nat) : (v.sshiftRight 1).sshiftRight n = v.sshiftRight (n + 1) := by
    rw [Nat.add_comm, BitVec.sshiftRight_add]
  exact iterate_eq_of_ac shiftRight1_eq (fun _ => BitVec.sshiftRight_zero) hsucc n a

/-! ### The obligations -/

/-- Settles O19: each position turns the ring by one, and the turns add up. -/
theorem rotatesTurnSeventeenBitRing : Obligations.RotatesTurnSeventeenBitRing := by
  refine ⟨by decide, fun on n s hfsm => ⟨?ral, ?rar, ?don⟩⟩
  case ral =>
    exact runOperate_performShift_of_effect hfsm
      (shiftEffect_of_ring (ring_iterate_rotateLeft1 _ _))
  case rar =>
    exact runOperate_performShift_of_effect hfsm
      (shiftEffect_of_ring (ring_iterate_rotateRight1 _ _))
  case don => exact runOperate_performShift_of_effect hfsm rfl

/-- Settles O20: the positions of a shift add up, and no position touches L. -/
theorem shiftsKeepSignAndLink : Obligations.ShiftsKeepSignAndLink := by
  refine ⟨by decide, fun on n s hfsm => ⟨?sal, ?sar⟩⟩
  case sal =>
    refine runOperate_performShift_of_effect hfsm ?_
    rw [shiftEffect, iterate_shiftLeft1, shiftBelowSign_eq]
  case sar =>
    refine runOperate_performShift_of_effect hfsm ?_
    rw [shiftEffect, iterate_shiftRight1, BitVec.sshiftRight_eq, Int.shiftRight_eq_div_pow]
    rfl

end Sys2Proof.ShiftEffects
end

section
/-! Class 3 (spec 42_main_operate.md R201 to R220): the highest set condition bit decides the skip,
and with it every word that names a single condition. -/

namespace Sys2Proof.SkipEffects

open Sys2Proof.Machine Sys2Proof.OperateEffects Sys2Proof.OrderEffects

/-! ### The conditions in ascending order -/

/-- The result of R201 after the bits below `n`. -/
def resultBelow (s : State) (cond : BitVec 9) : Nat → Bool
  | 0 => false
  | n + 1 => overwrite (cond.getLsbD n) (skipCondition s n) (resultBelow s cond n)

theorem skipCondition_zero (s : State) : skipCondition s 0 = decide (s.main.ac = 0) := by
  have hzero : s.main.ac.toNat = 0 ↔ s.main.ac = 0 := BitVec.toNat_inj (y := 0)
  exact decide_eq_decide.mpr hzero

theorem skipCondition_one (s : State) : skipCondition s 1 = !s.main.ac.getLsbD 15 := by
  have hsign : s.main.ac.getLsbD 15 = decide (2 ^ 15 ≤ s.main.ac.toNat) :=
    BitVec.getLsbD_last s.main.ac
  rw [hsign, ← decide_not, skipCondition]
  simp only [Nat.not_le]

theorem skipCondition_one_signed (s : State) :
    skipCondition s 1 = decide (0 ≤ s.main.ac.toInt) := by
  have hsign : s.main.ac.toNat < 2 ^ 15 ↔ 0 ≤ s.main.ac.toInt := by
    rw [BitVec.toInt_eq_toNat_cond]
    omega
  exact decide_eq_decide.mpr hsign

theorem skipCondition_two (s : State) : skipCondition s 2 = decide (s.main.l = false) := by
  rw [skipCondition]
  cases s.main.l <;> rfl

/-- The model's chain of R201 is `resultBelow` of all nine bits, then the negation. -/
theorem skipTest_eq (neg : Bool) (cond : BitVec 9) (s : State) :
    skipTest neg cond s = (resultBelow s cond 9 != neg) := by
  have hresult : skipTest neg cond s =
      if neg then !(resultBelow s cond 9) else resultBelow s cond 9 := by
    simp only [skipTest, resultBelow, skipCondition_zero, skipCondition_one]
    rfl
  cases neg <;> simp [hresult]

theorem resultBelow_of_none {s : State} {cond : BitVec 9} {n : Nat}
    (hclear : ∀ j < n, cond.getLsbD j = false) : resultBelow s cond n = false := by
  induction n with
  | zero => rfl
  | succ n ih =>
    rw [resultBelow, hclear n n.lt_succ_self]
    exact ih fun j hj => hclear j (by omega)

/-- Every condition above the bit `k` keeps its truth value, and those below are overwritten. -/
theorem resultBelow_of_highest {s : State} {cond : BitVec 9} {k n : Nat} (hk : k < n)
    (hset : cond.getLsbD k = true) (hhigh : ∀ j, k < j → cond.getLsbD j = false) :
    resultBelow s cond n = skipCondition s k := by
  induction n with
  | zero => omega
  | succ n ih =>
    rcases Nat.lt_succ_iff_lt_or_eq.mp hk with hlt | rfl
    · rw [resultBelow, hhigh n hlt]
      exact ih hlt
    · rw [resultBelow, hset]
      rfl

/-! ### The shape of a class 3 instruction -/

theorem runOperate_performSkp {i : Instr} {neg : Bool} {cond : BitVec 9} {s : State}
    (hfsm : s.main.fsm = .fetch) :
    runOperate i (performSkp neg cond) s =
      .next (operateDone i id
        (s.main.pc + (if (resultBelow s cond 9 != neg) = true then 2 else 1)) s) := by
  refine runOperate_of_perform hfsm (fun _ => rfl) rfl ?_
  have htest : skipTest neg cond (latch i .fetch s) = skipTest neg cond s := rfl
  rw [performSkp, htest, skipTest_eq, skip_or_next Iff.rfl, latch_of_fetch hfsm]
  rfl

section

variable {i : Instr} {s : State} {c : Bool} (k : Fin 9)

/-- A single condition bit is the highest. -/
theorem resultBelow_twoPow : resultBelow s (BitVec.twoPow 9 k) 9 = skipCondition s k := by
  refine resultBelow_of_highest k.isLt (by simp) fun j hj => ?_
  simp [BitVec.getLsbD_twoPow, hj.ne]

/-- A word with the condition bit `k` alone skips when that condition holds. -/
theorem runOperate_skip_if (hfsm : s.main.fsm = .fetch) (hc : skipCondition s k = c) :
    runOperate i (performSkp false (BitVec.twoPow 9 k)) s =
      .next (operateDone i id (s.main.pc + (if c then 2 else 1)) s) := by
  rw [runOperate_performSkp hfsm, resultBelow_twoPow, Bool.bne_false, hc]

/-- Negated, it skips when that condition fails. -/
theorem runOperate_skip_unless (hfsm : s.main.fsm = .fetch) (hc : (!skipCondition s k) = c) :
    runOperate i (performSkp true (BitVec.twoPow 9 k)) s =
      .next (operateDone i id (s.main.pc + (if c then 2 else 1)) s) := by
  rw [runOperate_performSkp hfsm, resultBelow_twoPow, Bool.bne_true, hc]

end

/-! ### The obligations -/

/-- Settles O21: `resultBelow` of all nine bits is the result. -/
theorem highestConditionDecidesSkip : Obligations.HighestConditionDecidesSkip := by
  refine ⟨by decide, fun neg cond s hfsm => ⟨resultBelow s cond 9, ?none, ?highest, ?exec⟩⟩
  case none =>
    rintro rfl
    exact resultBelow_of_none fun j _ => BitVec.getLsbD_zero
  case highest =>
    intro k hset hhigh
    exact resultBelow_of_highest (BitVec.lt_of_getLsbD hset) hset hhigh
  case exec => exact runOperate_performSkp hfsm

/-- Settles O22: each name has a single condition bit (R105), so that its condition decides. -/
theorem namedSkipsAszToKsf : Obligations.NamedSkipsAszToKsf := by
  refine ⟨by decide, fun s hfsm => ⟨?asz, ?asn, ?asp, ?asm, ?lsz, ?lsn, ?dsf, ?dsn, ?ksf⟩⟩
  case asz => exact runOperate_skip_if 0 hfsm (skipCondition_zero s)
  case asn =>
    refine runOperate_skip_unless 0 hfsm ?_
    exact (congrArg _ (skipCondition_zero s)).trans decide_not.symm
  case asp => exact runOperate_skip_if 1 hfsm (skipCondition_one_signed s)
  case asm =>
    refine runOperate_skip_unless 1 hfsm ((congrArg _ (skipCondition_one_signed s)).trans ?_)
    simp only [← decide_not, Int.not_le]
  case lsz => exact runOperate_skip_if 2 hfsm (skipCondition_two s)
  case lsn =>
    refine runOperate_skip_unless 2 hfsm ((congrArg _ (skipCondition_two s)).trans ?_)
    simp only [← decide_not, Bool.not_eq_false]
  case dsf => exact runOperate_skip_if 3 hfsm rfl
  case dsn => exact runOperate_skip_unless 3 hfsm decide_not.symm
  case ksf => exact runOperate_skip_if 4 hfsm rfl

/-- Settles O23: each name has a single condition bit (R105), whose truth is an input or the latch
as it stands. -/
theorem namedSkipsKsnToHsn : Obligations.NamedSkipsKsnToHsn := by
  refine ⟨by decide, fun s hfsm => ⟨?ksn, ?rsf, ?rsn, ?tsf, ?tsn, ?ssf, ?ssn, ?hsf, ?hsn⟩⟩
  case ksn => exact runOperate_skip_unless 4 hfsm rfl
  case rsf => exact runOperate_skip_if 5 hfsm rfl
  case rsn => exact runOperate_skip_unless 5 hfsm rfl
  case tsf => exact runOperate_skip_if 6 hfsm rfl
  case tsn => exact runOperate_skip_unless 6 hfsm rfl
  case ssf => exact runOperate_skip_if 7 hfsm rfl
  case ssn => exact runOperate_skip_unless 7 hfsm rfl
  case hsf => exact runOperate_skip_if 8 hfsm rfl
  case hsn => exact runOperate_skip_unless 8 hfsm rfl

end Sys2Proof.SkipEffects
end

section
/-! IOT (spec 43_main_iot.md R230 to R241): the three cases of the dispatch, the four codes of the
Display Processor and the fatal error of any other code routed to it, and the owner of a code under a
well-formed registry. -/

namespace Sys2Proof.IotEffects

open Sys2Proof.Machine Sys2Proof.OperateEffects Sys2Proof.Transitions

/-! ### The owner of a code -/

/-- With one owner a code, an entry of the registry is found whatever stands before it (R235). -/
theorem owner_of_mem {r : Registry} {code : IotCode} {d : Device}
    (hdistinct : r.ownersDistinct = true) (hmem : (code, d) ∈ r) : owner r code = some d := by
  induction r with
  | nil => cases hmem
  | cons e rest ih =>
    obtain ⟨c, d'⟩ := e
    simp only [Registry.ownersDistinct, Bool.and_eq_true, Bool.not_eq_true', List.any_eq_false,
      beq_iff_eq] at hdistinct
    obtain ⟨hfresh, hrest⟩ := hdistinct
    rw [owner]
    rcases List.mem_cons.mp hmem with hhead | htail
    · cases hhead
      exact if_pos rfl
    · have hne : c ≠ code := fun h => hfresh _ htail h.symm
      rw [if_neg hne]
      exact ih hrest htail

/-- A well-formed registry routes the Display Processor's four codes, and no other, to it (R234,
R241). -/
theorem owner_eq_display_iff {r : Registry} (hwf : r.wf = true) (code : IotCode) :
    owner r code = some .display ↔ code ∈ displayCodes := by
  refine ⟨mem_displayCodes_of_owner hwf, fun hmem => ?_⟩
  simp only [Registry.wf, Bool.and_eq_true, List.all_eq_true, List.contains_iff_mem] at hwf
  obtain ⟨⟨hdistinct, hclaimed⟩, _⟩ := hwf
  exact owner_of_mem hdistinct (hclaimed code hmem)

/-! ### The three cases of R230 -/

section

variable {code : IotCode} {s : State}

theorem dispatchIot_of_ignored (hign : s.params.ignoredIotCode = some code) :
    dispatchIot code s = .ok s := if_pos hign

theorem dispatchIot_of_unowned (hign : s.params.ignoredIotCode ≠ some code)
    (howner : owner s.params.registry code = none) :
    dispatchIot code s = .ok (logEvent (.unregisteredIot code) s) := by
  simp only [dispatchIot, if_neg hign, howner]

theorem dispatchIot_of_display (hign : s.params.ignoredIotCode ≠ some code)
    (howner : owner s.params.registry code = some .display) :
    dispatchIot code s = displayIot code s := by
  simp only [dispatchIot, if_neg hign, howner]

end

/-! ### The Display Processor's handler -/

/-- The upper bits of an address, by division (R237). -/
theorem ushiftRight_eq_ofNat_div (a : Word) (k : Nat) :
    a >>> k = BitVec.ofNat 16 (a.toNat / 2 ^ k) := by
  rw [← Nat.shiftRight_eq_div_pow, ← BitVec.toNat_ushiftRight, BitVec.ofNat_toNat,
    BitVec.setWidth_eq]

/-- DLA loads three registers and does not start the Display Processor (R237). -/
theorem loadDpc_eq (s : State) :
    loadDpc s = { s with disp := { s.disp with
      dpc := s.mask s.main.ac, dentry := s.mask s.main.ac
      block := BitVec.ofNat 16 ((s.mask s.main.ac).toNat / 2 ^ s.params.dblockBits) } } := by
  simp only [loadDpc, ushiftRight_eq_ofNat_div, State.onDisp]

/-- A code other than the four has no handler (R241). -/
theorem displayIot_of_not_mem {code : IotCode} (h : code ∉ displayCodes) (s : State) :
    displayIot code s = .error (.unimplementedDisplayIot code) := by
  simp only [displayCodes, List.mem_cons, List.not_mem_nil, or_false, not_or] at h
  obtain ⟨hdla, hdof, hscf, hdrs⟩ := h
  rw [displayIot, if_neg hdla, if_neg hdof, if_neg hscf, if_neg hdrs]

/-! ### The shape of an IOT -/

section

variable {i : Instr} {code : IotCode} {s t : State}

/-- An IOT that is performed runs as an operate instruction that goes on at PC + 1 (R121, R230). -/
theorem runIot_eq_runOperate (hdispatch : dispatchIot code (latch i .fetch s) = .ok t) :
    runIot i code s = runOperate i (fun s1 => (t, pcNext s1)) s := by
  rw [runOperate_eq, runIot, hdispatch]

/-- A fatal error of the dispatch ends the step (R322). -/
theorem runIot_of_error {f : Fault} (hdispatch : dispatchIot code (latch i .fetch s) = .error f) :
    runIot i code s = .fault f := by
  rw [runIot, hdispatch]

/-- An IOT whose dispatch changes the Main registers by `f`, and the rest of the state as from `s` to
`t`, completes as R121 and R127 say. -/
theorem runIot_of_dispatch {f : MainRegs → MainRegs} (hfsm : s.main.fsm = .fetch)
    (hf : ∀ m, (f m).fsm = m.fsm) (hmain : t.main = s.main)
    (hdispatch : dispatchIot code (s.onMain fun m => { m with ir := i }) =
      .ok (t.onMain fun m => f { m with ir := i })) :
    runIot i code s = .next (operateDone i f (s.main.pc + 1) t) := by
  rw [← latch_of_fetch hfsm] at hdispatch
  exact (runIot_eq_runOperate hdispatch).trans (runOperate_of_perform hfsm hf hmain rfl)

/-- A code of the Display Processor, whose handler turns the display registers to `d`. -/
theorem runIot_of_displayIot {d : DispRegs} (hfsm : s.main.fsm = .fetch)
    (hroute : s.params.ignoredIotCode ≠ some code ∧ owner s.params.registry code = some .display)
    (hhandler : displayIot code (s.onMain fun m => { m with ir := i }) =
      .ok (({ s with disp := d } : State).onMain fun m => { m with ir := i })) :
    runIot i code s = .next (operateDone i id (s.main.pc + 1) { s with disp := d }) := by
  obtain ⟨hign, howner⟩ := hroute
  refine runIot_of_dispatch hfsm (fun _ => rfl) rfl ?_
  calc dispatchIot code (s.onMain fun m => { m with ir := i })
    _ = displayIot code (s.onMain fun m => { m with ir := i }) := dispatchIot_of_display hign howner
    _ = _ := hhandler

end

/-! ### The obligations -/

/-- Settles O24: the dispatch answers the state as it is, or with one log entry more. -/
theorem ignoredAndUnownedIot : Obligations.IgnoredAndUnownedIot := by
  intro code s hfsm
  refine ⟨fun hign => ?ignored, fun hign howner => ?unowned⟩
  case ignored =>
    exact runIot_of_dispatch (t := s) hfsm (fun _ => rfl) rfl (dispatchIot_of_ignored hign)
  case unowned =>
    exact runIot_of_dispatch (t := logEvent (.unregisteredIot code) s) hfsm (fun _ => rfl) rfl
      (dispatchIot_of_unowned hign howner)

/-- Settles O26: each name runs its own code, whose handler changes display registers alone. -/
theorem displayIotCodes : Obligations.DisplayIotCodes := by
  refine ⟨by decide, fun s hfsm hroute => ?_⟩
  simp only [displayCodes, List.forall_mem_cons] at hroute
  obtain ⟨hdla, hdof, hscf, hdrs, _⟩ := hroute
  refine ⟨?dla, ?dof, ?scf, ?drs⟩
  case dla => exact runIot_of_displayIot hfsm hdla (congrArg Except.ok (loadDpc_eq _))
  case dof => exact runIot_of_displayIot hfsm hdof rfl
  case scf => exact runIot_of_displayIot hfsm hscf rfl
  case drs => exact runIot_of_displayIot hfsm hdrs (congrArg Except.ok (resumeHaltedDisplay_eq _))

/-- Settles O27: the handler has no case for the code, and by `owner_eq_display_iff` a well-formed
registry never routes it there. -/
theorem misroutedIotIsFatal : Obligations.MisroutedIotIsFatal := by
  refine ⟨fun code s _ hign howner hforeign => ?fatal, fun r code hwf => ?routed⟩
  case fatal =>
    refine runIot_of_error ?_
    calc dispatchIot code (latch (.iot code) .fetch s)
      _ = displayIot code (latch (.iot code) .fetch s) := dispatchIot_of_display hign howner
      _ = .error (.unimplementedDisplayIot code) := displayIot_of_not_mem hforeign _
  case routed => exact owner_eq_display_iff hwf code

end Sys2Proof.IotEffects
end

section
/-! The words of the Display Processor in Processor mode (spec 30_encoding.md R92 to R98): DOP
selects the row whatever DBLOCK_BITS is, and an operand in the low bits of a base word is read back. -/

namespace Sys2Proof.DisplayWords

open Sys2Proof.Machine

section

variable {k : Nat} {w : Word}

theorem decodeDisplayWord_of_dopr {i : Instr} (h : w.extractLsb' 12 3 = 0 ∧ decodeDopr w = i) :
    decodeDisplayWord k w = i := by
  obtain ⟨hdop, hrow⟩ := h
  simp only [decodeDisplayWord, hdop, hrow, if_true]

theorem decodeDisplayWord_of_dlxa (hdop : w.extractLsb' 12 3 = 1) :
    decodeDisplayWord k w = .dlxa (w.extractLsb' 0 10) := by
  rw [decodeDisplayWord, hdop]
  rfl

theorem decodeDisplayWord_of_dlya (hdop : w.extractLsb' 12 3 = 2) :
    decodeDisplayWord k w = .dlya (w.extractLsb' 0 10) := by
  rw [decodeDisplayWord, hdop]
  rfl

theorem decodeDisplayWord_of_deim (hdop : w.extractLsb' 12 3 = 3) :
    decodeDisplayWord k w = .deim (w.extractLsb' 0 8) := by
  rw [decodeDisplayWord, hdop]
  rfl

/-- DOP = 7 is SGR1 on the words that match its pattern (R98). -/
theorem decodeDisplayWord_of_sgr1 (hdop : w.extractLsb' 12 3 = 7)
    (hmatch : w &&& sgr1Mask = sgr1Match) {f : BitVec 3} (hflags : w.extractLsb' 0 3 = f) :
    decodeDisplayWord k w = .sgr1 (f.getLsbD 2) (f.getLsbD 1) (f.getLsbD 0) := by
  subst hflags
  rw [decodeDisplayWord, hdop, if_pos hmatch]
  simp

end

section

variable {n : Nat} (base : Word) (d : BitVec n)

/-- An operand of at most twelve bits leaves DOP alone. -/
theorem dop_or_operand (hn : n ≤ 12) :
    (base ||| d.zeroExtend 16).extractLsb' 12 3 = base.extractLsb' 12 3 := by
  apply BitVec.eq_of_getLsbD_eq
  intro i hi
  have hhigh : d.getLsbD (12 + i) = false := BitVec.getLsbD_of_ge d _ (by omega)
  simp [hhigh]

/-- An operand over zero bits of the base word is read back. -/
theorem operand_or_operand (hn : n ≤ 16) (hzero : base.extractLsb' 0 n = 0) :
    (base ||| d.zeroExtend 16).extractLsb' 0 n = d := by
  have hd : (d.zeroExtend 16).extractLsb' 0 n = d := by
    apply BitVec.eq_of_getLsbD_eq
    intro i hi
    have hi16 : i < 16 := by omega
    simp [hi, hi16]
  rw [BitVec.extractLsb'_or, hzero, hd]
  exact BitVec.zero_or

end

end Sys2Proof.DisplayWords
end

section
/-! The Processor-mode instructions of the display (spec 44_display_processor_mode.md R252 to R275):
how each goes on or returns, the micro-operations of DOPR each by one equation, and the arithmetic
of the beam. -/

namespace Sys2Proof.DisplayEffects

open Sys2Proof.Machine Sys2Proof.DisplayWords

/-! ### How a display instruction ends -/

section

variable {p : Perform} {s t : State} {dnext : Word}

/-- An effect that ends with a return, or none (R252, R253). -/
theorem runDisplay_of_return (ret : Bool)
    (hp : p s = ((if ret then displayReturn dnext t else (dnext, t)).2,
      (if ret then displayReturn dnext t else (dnext, t)).1)) :
    runDisplay p s = .next (displayDone ret dnext t) := by
  rw [runDisplay, hp]
  exact congrArg _ (displayReturn_done ret dnext t)

/-- An effect without a return (R252). -/
theorem runDisplay_of_perform (hp : p s = (t, dnext)) :
    runDisplay p s = .next (displayDone false dnext t) := runDisplay_of_return false hp

end

section

variable {s : State}

theorem displayReturn_of_nil (h : s.disp.dstack = []) (dnext : Word) :
    displayReturn dnext s = (dnext, logEvent .displayStackUnderflow s) := by
  rw [displayReturn, h]

theorem displayReturn_of_cons {top : Word} {rest : List Word} (h : s.disp.dstack = top :: rest)
    (dnext : Word) :
    displayReturn dnext s = (top, s.onDisp fun d => { d with dstack := rest }) := by
  rw [displayReturn, h]

end

/-! ### The micro-operations of DOPR -/

/-- A coordinate one step of the DACs on, or back (R254). -/
def stepped (negative : Bool) (v k : Dac) : Dac := if negative then v - k else v + k

theorem stepX_eq (negative : Bool) (s : State) :
    stepX negative s =
      emitMove .off (setX (stepped negative s.disp.x s.params.dacMsbStep) s) := by
  rw [stepX, dacMove_eq, BitVec.ofNat_toNat, BitVec.setWidth_eq]
  rfl

theorem stepY_eq (negative : Bool) (s : State) :
    stepY negative s =
      emitMove .off (setY (stepped negative s.disp.y s.params.dacMsbStep) s) := by
  rw [stepY, dacMove_eq, BitVec.ofNat_toNat, BitVec.setWidth_eq]
  rfl

/-- BLOCK takes the constant modulo the number of blocks (R266). -/
theorem constant_and_blockMask (c : BitVec 2) (p : Params) :
    c.zeroExtend 16 &&& blockMask p =
      BitVec.ofNat 16 (c.toNat % 2 ^ (p.addrBits - p.dblockBits)) := by
  apply BitVec.eq_of_getLsbD_eq
  intro i hi
  simp only [blockMask, BitVec.getLsbD_and, BitVec.getLsbD_setWidth, BitVec.getLsbD_ofNat,
    Nat.testBit_two_pow_sub_one, Nat.testBit_mod_two_pow, BitVec.testBit_toNat, hi, decide_true,
    Bool.true_and, Bool.and_comm]

section

variable (set : Bool) (s : State)

theorem whenSet_not_haltDisplay :
    whenSet (!set) haltDisplay s =
      { s with disp := { s.disp with dstate := if set then s.disp.dstate else .halted } } := by
  cases set <;> rfl

theorem whenSet_emitMove (style : Style) :
    whenSet set (emitMove style) s =
      { s with sink := s.sink ++ eventIf set (.moveAbsolute s.disp.x s.disp.y style) } := by
  cases set with
  | false => simp only [whenSet, eventIf, Bool.false_eq_true, if_false, List.append_nil]
  | true => rfl

theorem whenSet_drawPoint :
    whenSet set (fun s => emit (.drawPoint s.disp.x s.disp.y) s) s =
      { s with sink := s.sink ++ eventIf set (.drawPoint s.disp.x s.disp.y) } := by
  cases set with
  | false => simp only [whenSet, eventIf, Bool.false_eq_true, if_false, List.append_nil]
  | true => rfl

theorem whenSet_stepX (negative : Bool) :
    whenSet set (stepX negative) s =
      whenSet set (emitMove .off)
        (setX (if set then stepped negative s.disp.x s.params.dacMsbStep else s.disp.x) s) := by
  cases set with
  | false => rfl
  | true => exact stepX_eq negative s

theorem whenSet_stepY (negative : Bool) :
    whenSet set (stepY negative) s =
      whenSet set (emitMove .off)
        (setY (if set then stepped negative s.disp.y s.params.dacMsbStep else s.disp.y) s) := by
  cases set with
  | false => rfl
  | true => exact stepY_eq negative s

end

theorem displayFunction_eq (f c : BitVec 2) (s : State) :
    displayFunction f c s =
      { s with disp := { s.disp with
          scale := if f = 1 then (if c = 0 then 1 else c.toNat) else s.disp.scale
          block :=
            if f = 2 then
              BitVec.ofNat 16 (c.toNat % 2 ^ (s.params.addrBits - s.params.dblockBits))
            else s.disp.block } } := by
  rw [← constant_and_blockMask]
  by_cases hscale : f = 1
  · subst hscale
    rfl
  · by_cases hblock : f = 2
    · subst hblock
      rfl
    · simp only [displayFunction, hscale, hblock, if_false]

/-! ### DOPR as a whole -/

/-- The micro-operations before the return: the halt, and the moves of the beam. -/
def doprMoves (nh sync ixm iym dxm dym : Bool) (s : State) : State :=
  whenSet dym (stepY true) <| whenSet dxm (stepX true) <| whenSet iym (stepY false) <|
    whenSet ixm (stepX false) <| whenSet sync (emitMove .off) <| whenSet (!nh) haltDisplay s

/-- The micro-operations after it: the point and the function. -/
def doprEnd (dsp : Bool) (f c : BitVec 2) (s : State) : State :=
  displayFunction f c (whenSet dsp (fun s => emit (.drawPoint s.disp.x s.disp.y) s) s)

theorem doprEnd_eq (dsp : Bool) (f c : BitVec 2) (s : State) :
    doprEnd dsp f c s =
      displayFunction f c
        { s with sink := s.sink ++ eventIf dsp (.drawPoint s.disp.x s.disp.y) } := by
  rw [doprEnd, whenSet_drawPoint]

@[simp] theorem doprEnd_dstack (dsp : Bool) (f c : BitVec 2) (s : State) :
    (doprEnd dsp f c s).disp.dstack = s.disp.dstack := by
  rw [doprEnd_eq, displayFunction_eq]

/-- The point and the function do not touch what a return does, the stack and the log. -/
theorem displayReturn_doprEnd (dnext : Word) (dsp : Bool) (f c : BitVec 2) (s : State) :
    displayReturn dnext (doprEnd dsp f c s) =
      ((displayReturn dnext s).1, doprEnd dsp f c (displayReturn dnext s).2) := by
  cases hstack : s.disp.dstack with
  | nil =>
    rw [displayReturn_of_nil hstack, displayReturn_of_nil ((doprEnd_dstack ..).trans hstack)]
    simp only [doprEnd_eq, displayFunction_eq]
    rfl
  | cons top rest =>
    rw [displayReturn_of_cons hstack, displayReturn_of_cons ((doprEnd_dstack ..).trans hstack)]
    simp only [doprEnd_eq, displayFunction_eq]
    rfl

/-- DOPR does all its micro-operations and then returns, or goes on (R254). -/
theorem runDisplay_performDopr (nh sync ixm iym dxm dym rjm dsp : Bool) (f c : BitVec 2)
    (s : State) :
    runDisplay (performDopr nh sync ixm iym dxm dym rjm dsp f c) s =
      .next (displayDone rjm (s.disp.dpc + 1)
        (doprEnd dsp f c (doprMoves nh sync ixm iym dxm dym s))) := by
  apply runDisplay_of_return
  cases rjm with
  | false => rfl
  | true =>
    rw [if_pos rfl, displayReturn_doprEnd]
    rfl

/-- A named word of DOPR, whose bits together turn the state to `t`. -/
theorem runDisplay_performDopr_of_effect {nh sync ixm iym dxm dym rjm dsp : Bool}
    {f c : BitVec 2} {s t : State} (h : doprEnd dsp f c (doprMoves nh sync ixm iym dxm dym s) = t) :
    runDisplay (performDopr nh sync ixm iym dxm dym rjm dsp f c) s =
      .next (displayDone rjm (s.disp.dpc + 1) t) := by
  rw [runDisplay_performDopr, h]

/-! ### Position loads -/

theorem doubled_eq (v : BitVec 10) : doubled v = BitVec.ofNat 11 (2 * v.toNat) := by
  apply BitVec.eq_of_toNat_eq
  simp [doubled, Nat.shiftLeft_eq, Nat.mul_comm]

theorem loadStyle_eq (s : State) :
    loadStyle s = if s.disp.sgrEnter = true ∧ s.disp.sgrBeam = true then .extended else .off := by
  simp only [loadStyle, Bool.and_eq_true]

/-- A position load that leaves `t` moves the beam there and returns if SGR_RET says so (R269). -/
theorem runDisplay_of_load {p : Perform} {s t : State} (hp : p s = finishLoad t) :
    runDisplay p s =
      .next (displayDone t.disp.sgrRet (t.disp.dpc + 1) (emitMove (loadStyle t) t)) :=
  runDisplay_of_return t.disp.sgrRet hp

/-! ### The long vector -/

theorem dacMove_eq_ofInt (v : Dac) (negative : Bool) (k : Nat) :
    dacMove v negative k = BitVec.ofInt 11 (v.toNat + (if negative then -(k : Int) else k)) := by
  cases negative <;> rfl

theorem scaled_cast (magnitude scale : Nat) :
    (scaled magnitude scale : Int) = magnitude * scale * 2 := by
  simp only [scaled, Int.natCast_mul, Int.cast_ofNat_Int]

theorem lineStyle_eq (beam dot : Bool) :
    lineStyle beam dot = if beam = false then .off else if dot then .dotted else .normal := by
  cases beam <;> rfl

/-! ### The obligations -/

/-- Settles O31: the micro-operations of `runDisplay_performDopr`, each by its equation. -/
theorem displayOperateMicroOperations : Obligations.DisplayOperateMicroOperations := by
  intro nh sync ixm iym dxm dym rjm dsp f c s
  refine (runDisplay_performDopr nh sync ixm iym dxm dym rjm dsp f c s).trans ?_
  simp only [doprMoves, doprEnd_eq, displayFunction_eq, whenSet_stepX, whenSet_stepY,
    whenSet_not_haltDisplay, whenSet_emitMove]
  rfl

/-- Settles O32: the bits of each name (R105) and what they do together. -/
theorem namedDisplayOperates : Obligations.NamedDisplayOperates := by
  refine ⟨fun k => ⟨?named, fun c => ?functions⟩, fun s c => ?effects⟩
  case named =>
    refine ⟨?_, ?_, ?_, ?_, ?_, ?_, ?_, ?_, ?_⟩ <;> exact decodeDisplayWord_of_dopr (by decide)
  case functions =>
    have hrows : ∀ c : BitVec 2,
        ((0x0804 + c.zeroExtend 16 : Word).extractLsb' 12 3 = 0
          ∧ decodeDopr (0x0804 + c.zeroExtend 16) = .dsts c)
        ∧ ((0x0808 + c.zeroExtend 16 : Word).extractLsb' 12 3 = 0
          ∧ decodeDopr (0x0808 + c.zeroExtend 16) = .dstb c)
        ∧ ((0x080C + c.zeroExtend 16 : Word).extractLsb' 12 3 = 0
          ∧ decodeDopr (0x080C + c.zeroExtend 16) = .dlpn c) := by decide
    obtain ⟨hdsts, hdstb, hdlpn⟩ := hrows c
    exact ⟨decodeDisplayWord_of_dopr hdsts, decodeDisplayWord_of_dopr hdstb,
      decodeDisplayWord_of_dopr hdlpn⟩
  case effects =>
    refine ⟨?dhlt, ?dnop, ?dhvc, ?dixm, ?diym, ?ddxm, ?ddym, ?drjm, ?ddsp, ?dsts, ?dstb, ?dlpn⟩
    case dhlt => exact runDisplay_performDopr_of_effect rfl
    case dnop => exact runDisplay_performDopr_of_effect rfl
    case dhvc => exact runDisplay_performDopr_of_effect rfl
    case dixm => exact runDisplay_performDopr_of_effect (stepX_eq false s)
    case diym => exact runDisplay_performDopr_of_effect (stepY_eq false s)
    case ddxm => exact runDisplay_performDopr_of_effect (stepX_eq true s)
    case ddym => exact runDisplay_performDopr_of_effect (stepY_eq true s)
    case drjm => exact runDisplay_performDopr_of_effect rfl
    case ddsp => exact runDisplay_performDopr_of_effect rfl
    case dsts => exact runDisplay_performDopr_of_effect rfl
    case dstb => exact runDisplay_performDopr_of_effect (displayFunction_eq 2 c s)
    case dlpn => exact runDisplay_performDopr_of_effect rfl

/-- Settles O33: the operand doubled, and the move and the return of `runDisplay_of_load`. -/
theorem positionLoads : Obligations.PositionLoads := by
  intro v s
  refine ⟨?dlxaWord, ?dlyaWord, ?dlxa, ?dlya⟩
  case dlxaWord =>
    rw [decodeDisplayWord_of_dlxa (dop_or_operand 0x1000 v (by decide)),
      operand_or_operand 0x1000 v (by decide) (by decide)]
  case dlyaWord =>
    rw [decodeDisplayWord_of_dlya (dop_or_operand 0x2000 v (by decide)),
      operand_or_operand 0x2000 v (by decide) (by decide)]
  case dlxa =>
    refine (runDisplay_of_load (t := setX (doubled v) s) rfl).trans ?_
    rw [loadStyle_eq, doubled_eq]
    rfl
  case dlya =>
    refine (runDisplay_of_load (t := setY (doubled v) s) rfl).trans ?_
    rw [loadStyle_eq, doubled_eq]
    rfl

/-- Settles O34: both effects write registers alone. -/
theorem enterIncrementAndSgr : Obligations.EnterIncrementAndSgr := by
  refine ⟨fun b s => ⟨?deimWord, ?deim⟩, fun f s => ⟨?sgr1Word, ?sgr1⟩⟩
  case deimWord =>
    rw [decodeDisplayWord_of_deim (dop_or_operand 0x3000 b (by decide)),
      operand_or_operand 0x3000 b (by decide) (by decide)]
  case deim =>
    rw [BitVec.ofNat_toNat]
    exact runDisplay_of_perform rfl
  case sgr1Word =>
    have hmatch : ∀ f : BitVec 3, (0x7FC8 ||| f.zeroExtend 16) &&& sgr1Mask = sgr1Match := by
      decide
    exact decodeDisplayWord_of_sgr1 (dop_or_operand 0x7FC8 f (by decide)) (hmatch f)
      (operand_or_operand 0x7FC8 f (by decide) (by decide))
  case sgr1 => exact runDisplay_of_perform rfl

/-- Settles O35: the two axes of the long vector, as integer arithmetic modulo 2^11. -/
theorem longVectorMoves : Obligations.LongVectorMoves := by
  intro hint s
  refine runDisplay_of_perform ?_
  simp only [performDlvh, dacMove_eq_ofInt, scaled_cast, lineStyle_eq]
  rfl

end Sys2Proof.DisplayEffects
end

section
/-! The halves of Increment mode (spec 45_display_increment_mode.md R302 to R306): the vector half as
arithmetic on the beam, the DAC operations of the control half each by one equation, and how a half
ends. -/

namespace Sys2Proof.IncrementEffects

open Sys2Proof.Machine Sys2Proof.DisplayEffects

/-! ### Decoding: bit 7 selects the format (R100) -/

section

variable {h : Byte}

theorem decodeHalf_of_vector (h7 : h.getLsbD 7 = true) :
    decodeHalf h =
      .incVec (h.getLsbD 6) (h.getLsbD 5) (h.extractLsb' 3 2) (h.getLsbD 2)
        (h.extractLsb' 0 2) := by
  rw [decodeHalf, if_pos h7]

theorem decodeHalf_of_control (h7 : h.getLsbD 7 = false) :
    decodeHalf h =
      .incCtl (h.getLsbD 6) (h.getLsbD 5) (h.getLsbD 4) (h.getLsbD 3) (h.getLsbD 2)
        (h.getLsbD 1) := by
  rw [decodeHalf, if_neg (Bool.eq_false_iff.mp h7)]

end

/-! ### The vector half (R302) -/

theorem exec_incVec (beam xneg : Bool) (xmag : BitVec 2) (yneg : Bool) (ymag : BitVec 2)
    (s : State) :
    exec (.incVec beam xneg xmag yneg ymag) s =
      .next (nextHalf (vectorHalf beam xneg xmag yneg ymag s)) := rfl

/-- The two moves are of X and of Y alone, and one event follows them. -/
theorem vectorHalf_eq (beam xneg : Bool) (xmag : BitVec 2) (yneg : Bool) (ymag : BitVec 2)
    (s : State) :
    vectorHalf beam xneg xmag yneg ymag s =
      emitMove (if beam then .normal else .off)
        (setY (dacMove s.disp.y yneg (scaled ymag.toNat s.disp.scale))
          (setX (dacMove s.disp.x xneg (scaled xmag.toNat s.disp.scale)) s)) := rfl

/-! ### The DAC operations of the control half (R303) -/

/-- A coordinate after the DAC operations of its axis: the step, and then the clear. -/
def controlled (step clear : Bool) (p : Params) (v : Dac) : Dac :=
  let moved := if step then v + p.dacMsbStep else v
  if clear then moved &&& ~~~p.dacLsbMask else moved

theorem dacMove_forward (v k : Dac) : dacMove v false k.toNat = v + k := by
  rw [dacMove_eq, BitVec.ofNat_toNat, BitVec.setWidth_eq]
  rfl

section

variable (s : State)

theorem whenSet_setX (set : Bool) (f : State → Dac) :
    whenSet set (fun s => setX (f s) s) s = setX (if set then f s else s.disp.x) s := by
  cases set <;> rfl

theorem whenSet_setY (set : Bool) (f : State → Dac) :
    whenSet set (fun s => setY (f s) s) s = setY (if set then f s else s.disp.y) s := by
  cases set <;> rfl

/-- The operations of one axis do not read or write the other, so that each coordinate is set once,
before the one event of the four. -/
theorem controlDacs_eq (ixm zxl iym zyl : Bool) :
    controlDacs ixm zxl iym zyl s =
      whenSet (ixm || zxl || iym || zyl) (emitMove .off)
        (setY (controlled iym zyl s.params s.disp.y)
          (setX (controlled ixm zxl s.params s.disp.x) s)) := by
  simp only [controlDacs, whenSet_setX, whenSet_setY, dacMove_forward]
  rfl

/-- With ESC the half escapes, through a return with RJM; without it RJM does nothing (R304, R305). -/
theorem exec_incCtl (esc rjm ixm zxl iym zyl : Bool) :
    exec (.incCtl esc rjm ixm zxl iym zyl) s =
      .next (if esc then escape rjm (controlDacs ixm zxl iym zyl s)
        else nextHalf (controlDacs ixm zxl iym zyl s)) := rfl

end

/-! ### The obligations -/

/-- Settles O37: both moves as integer arithmetic modulo 2^11, and then the next half. -/
theorem vectorHalfMoves : Obligations.VectorHalfMoves := by
  refine ⟨fun _ => decodeHalf_of_vector, fun beam xneg xmag yneg ymag s => ?_⟩
  rw [exec_incVec, nextHalf_eq, vectorHalf_eq]
  simp only [dacMove_eq_ofInt, scaled_cast]
  rfl

/-- Settles O38: the operations of `controlDacs_eq`, none of which changes DPC, and then the escape or
the next half. -/
theorem controlHalfActs : Obligations.ControlHalfActs := by
  refine ⟨fun _ => decodeHalf_of_control, fun esc rjm ixm zxl iym zyl s => ?_⟩
  rw [exec_incCtl, escape_eq, nextHalf_eq, controlDacs_eq, whenSet_emitMove]
  rfl

end Sys2Proof.IncrementEffects
end

section
/-! The host's reset (spec 70_reset_and_hazards.md R360 to R365): how a step serves the first request of
the agenda, and the state that `Reset()` leaves. -/

namespace Sys2Proof.ResetEffects

open Sys2Proof.Machine

/-- A step serves the first request of the agenda (R5), to which only the rest of it is left. -/
theorem step_of_agenda_cons {s : State} {r : HostRequest} {rest : List HostRequest}
    (hagenda : s.agenda = r :: rest) : step s = serve r { s with agenda := rest } := by
  simp only [step, nextRequest, hagenda]

theorem serve_reset (s : State) : serve .reset s = .next (applyReset s) := rfl

/-! ### What `Reset()` leaves in each part of the state (R360) -/

section

variable (s : State)

/-- R361. IR and EA, to which the table gives no value, are not touched (R17, R18). -/
@[simp] theorem applyReset_main :
    (applyReset s).main =
      { pc := s.mask s.params.bootAddress, ac := 0, l := false, ds := 0
        mstate := s.params.mainResetState, fsm := .fetch, ir := s.main.ir, ea := s.main.ea
        bpAddr := 0 } := rfl

/-- R362. -/
@[simp] theorem applyReset_disp :
    (applyReset s).disp =
      { dpc := 0, block := 0, x := 0, y := 0, scale := 1, sgrEnter := false, sgrBeam := false
        sgrRet := false, dstack := [], frameCnt := 0, frameLatch := false, dstate := .halted
        dmode := .processor, immWord := 0, half := .first, dentry := 0, bpAddr := 0 } := rfl

/-- Reset writes the two register files, the caches with their tags, and the sink (R360), and nothing
else: memory, the configuration and the inputs stay (R364, R365). -/
theorem applyReset_eq :
    applyReset s =
      { s with
        main := (applyReset s).main
        disp := (applyReset s).disp
        mcache := []
        dcache := []
        usage := []
        sink := s.sink ++ [.moveAbsolute 0 0 .off] } := rfl

end

/-! ### The obligation -/

/-- Settles O45: the step is `Reset()` with the request taken off the agenda, and IR and EA are those
from before it. -/
theorem resetRequest : Obligations.ResetRequest := by
  intro s rest hagenda
  refine ⟨s.main.ir, s.main.ea, ?_⟩
  rw [step_of_agenda_cons hagenda, serve_reset, applyReset_eq, applyReset_main, applyReset_disp]
  rfl

end Sys2Proof.ResetEffects
end

section
/-! Decoding what was encoded, and encoding forms (spec 30_encoding.md R80 to R105): the spelling of a
word is the name R105 gives it or the generic row, every format's word is read back field by field, and
every word decodes to a well-formed instruction of its own decoder. -/

namespace Sys2Proof.RoundTrip

open Sys2Proof.Machine Sys2Proof.Encoding Sys2Proof.OrderWords Sys2Proof.DisplayWords
  Sys2Proof.IncrementEffects

/-! ### Spellings (R105) -/

theorem expand_decoder (i : Instr) : i.expand.decoder = i.decoder := by
  cases i <;> rfl

theorem isUnassigned_expand (i : Instr) : isUnassigned i.expand = isUnassigned i := by
  cases i <;> rfl

section

variable {nh oda cml cll iac cma cla sync ixm iym dxm dym rjm dsp neg don : Bool}
  {f c cnt : BitVec 2} {cond : BitVec 9} {code : IotCode} {k : Nat}

theorem nameOpr_of_not_named (h : namedOprs.contains (nh, oda, cml, cll, iac, cma, cla) = false) :
    nameOpr nh oda cml cll iac cma cla = .opr nh oda cml cll iac cma cla := by
  unfold nameOpr
  split
  case h_15 => rfl
  all_goals exact absurd h (by decide)

theorem nameRal_of_not_named (h : (don && cnt == 0) = false) : nameRal don cnt = .ral don cnt := by
  rw [nameRal, h]
  rfl

theorem nameSkp_of_not_named (h : singleConditions.contains cond = false) :
    nameSkp neg cond = .skp neg cond := by
  have hne : cond ∉ singleConditions := by simpa using h
  simp only [singleConditions, List.mem_cons, List.not_mem_nil, or_false, not_or] at hne
  obtain ⟨h0, h1, h2, h3, h4, h5, h6, h7, h8⟩ := hne
  rw [nameSkp, if_neg h0, if_neg h1, if_neg h2, if_neg h3, if_neg h4, if_neg h5, if_neg h6,
    if_neg h7, if_neg h8]

theorem nameIot_of_not_named (h : displayCodes.contains code = false) :
    nameIot code = .iot code := by
  have hne : code ∉ displayCodes := by simpa using h
  simp only [displayCodes, List.mem_cons, List.not_mem_nil, or_false, not_or] at hne
  obtain ⟨hdla, hdof, hscf, hdrs⟩ := hne
  rw [nameIot, if_neg hdla, if_neg hdof, if_neg hscf, if_neg hdrs]

theorem nameDopr_of_not_named
    (h : isNamedDopr (nh, sync, ixm, iym, dxm, dym, rjm, dsp) f c = false) :
    nameDopr nh sync ixm iym dxm dym rjm dsp f c = .dopr nh sync ixm iym dxm dym rjm dsp f c := by
  unfold nameDopr
  split
  next hfc =>
    obtain ⟨rfl, rfl⟩ := hfc
    split
    case h_10 => rfl
    all_goals exact absurd h (by decide)
  next hfc =>
    split
    next =>
      have hf : f = 0 := by
        by_contra hf
        simp [isNamedDopr] at h
        exact hf h.2
      subst hf
      rfl
    next => rfl

theorem nameOpr_wf : (nameOpr nh oda cml cll iac cma cla).wf k = true := by
  cases h : namedOprs.contains (nh, oda, cml, cll, iac, cma, cla) with
  | false =>
    rw [nameOpr_of_not_named h, Instr.wf, h]
    rfl
  | true =>
    have hmem : (nh, oda, cml, cll, iac, cma, cla) ∈ namedOprs := by simpa using h
    fin_cases hmem <;> rfl

theorem nameRal_wf : (nameRal don cnt).wf k = true := by
  unfold nameRal
  split
  next => rfl
  next h =>
    rw [Instr.wf, eq_false_of_ne_true h]
    rfl

theorem nameSkp_wf : (nameSkp neg cond).wf k = true := by
  cases h : singleConditions.contains cond with
  | false =>
    rw [nameSkp_of_not_named h, Instr.wf, h]
    rfl
  | true =>
    have hmem : cond ∈ singleConditions := by simpa using h
    fin_cases hmem <;> cases neg <;> rfl

theorem nameIot_wf : (nameIot code).wf k = true := by
  cases h : displayCodes.contains code with
  | false =>
    rw [nameIot_of_not_named h, Instr.wf, h]
    rfl
  | true =>
    have hmem : code ∈ displayCodes := by simpa using h
    fin_cases hmem <;> rfl

theorem nameDopr_wf : (nameDopr nh sync ixm iym dxm dym rjm dsp f c).wf k = true := by
  cases h : isNamedDopr (nh, sync, ixm, iym, dxm, dym, rjm, dsp) f c with
  | false =>
    rw [nameDopr_of_not_named h, Instr.wf, h]
    rfl
  | true =>
    rw [isNamedDopr, Bool.or_eq_true, Bool.and_eq_true, Bool.and_eq_true, Bool.and_eq_true,
      List.contains_iff_mem, bne_iff_ne] at h
    rcases h with ⟨⟨hf, hc⟩, hmem⟩ | ⟨hf, hbits⟩
    · rw [eq_of_beq hf, eq_of_beq hc]
      fin_cases hmem <;> rfl
    · cases eq_of_beq hbits
      have hcases : f = 1 ∨ f = 2 ∨ f = 3 := by
        revert f
        decide
      rcases hcases with rfl | rfl | rfl <;> rfl

theorem expand_nameDopr :
    (nameDopr nh sync ixm iym dxm dym rjm dsp f c).expand =
      .dopr nh sync ixm iym dxm dym rjm dsp f c := by
  unfold nameDopr
  split
  next hfc =>
    obtain ⟨rfl, rfl⟩ := hfc
    split <;> rfl
  next =>
    split
    next =>
      iterate 3 refine expand_ite (fun hf => by subst hf; rfl) ?_
      rfl
    next => rfl

end

/-! ### A format's word is read back (R81, R91, R100) -/

theorem decodeMainWord_encodeOpr (nh oda cml cll iac cma cla : Bool) :
    decodeMainWord (encodeOpr nh oda cml cll iac cma cla) = nameOpr nh oda cml cll iac cma cla := by
  have hclass : encodeOpr nh oda cml cll iac cma cla &&& 0x7E00 = 0 := by
    apply BitVec.eq_of_getLsbD_eq
    intro i hi
    simp only [encodeOpr, BitVec.getLsbD_and, BitVec.getLsbD_append, BitVec.getLsbD_ofBool]
    interval_cases i <;> simp
  rw [decodeMainWord_of_opr hclass, decodeOpr]
  simp only [encodeOpr, BitVec.getLsbD_append, BitVec.getLsbD_ofBool]
  simp

/-- The row of class 2 that SOP selects (R84). -/
def shiftRow (sop : BitVec 2) (don : Bool) (cnt : BitVec 2) : Instr :=
  if sop = 0 then nameRal don cnt
  else if sop = 1 then .rar don cnt
  else if sop = 2 then .sal don cnt
  else .sar don cnt

theorem decodeMainWord_encodeShift (sop : BitVec 2) (don : Bool) (cnt : BitVec 2) :
    decodeMainWord (encodeShift sop don cnt) = shiftRow sop don cnt := by
  have hclass : encodeShift sop don cnt &&& 0xFE00 = 0x0600 := by
    apply BitVec.eq_of_getLsbD_eq
    intro i hi
    simp only [encodeShift, BitVec.getLsbD_and, BitVec.getLsbD_append, BitVec.getLsbD_ofBool]
    interval_cases i <;> simp
  have hcnt : (encodeShift sop don cnt).extractLsb' 0 2 = cnt := by
    apply BitVec.eq_of_getLsbD_eq
    intro i hi
    simp only [encodeShift, BitVec.getLsbD_extractLsb', BitVec.getLsbD_append,
      BitVec.getLsbD_ofBool]
    interval_cases i <;> simp
  rw [decodeMainWord_of_shift hclass, decodeShift, hcnt]
  have hsop : ∀ sop : BitVec 2, sop = 0 ∨ sop = 1 ∨ sop = 2 ∨ sop = 3 := by decide
  simp only [encodeShift, BitVec.getLsbD_append, BitVec.getLsbD_ofBool]
  rcases hsop sop with rfl | rfl | rfl | rfl <;> rfl

theorem decodeMainWord_encodeSkp (neg : Bool) (cond : BitVec 9) :
    decodeMainWord (encodeSkp neg cond) = nameSkp neg cond := by
  have hclass : encodeSkp neg cond &&& 0x7E00 = 0x0400 := by
    apply BitVec.eq_of_getLsbD_eq
    intro i hi
    simp only [encodeSkp, BitVec.getLsbD_and, BitVec.getLsbD_append, BitVec.getLsbD_ofBool]
    interval_cases i <;> simp
  have hcond : (encodeSkp neg cond).extractLsb' 0 9 = cond := by
    apply BitVec.eq_of_getLsbD_eq
    intro i hi
    simp only [encodeSkp, BitVec.getLsbD_extractLsb', BitVec.getLsbD_append]
    simp [hi]
  rw [decodeMainWord_of_skp hclass, decodeSkp, hcond]
  simp only [encodeSkp, BitVec.getLsbD_append, BitVec.getLsbD_ofBool]
  simp

theorem decodeMainWord_encodeIot (code : IotCode) :
    decodeMainWord (encodeIot code) = nameIot code := by
  have hclass : encodeIot code &&& 0xFE00 = 0x0200 := by
    apply BitVec.eq_of_getLsbD_eq
    intro i hi
    simp only [encodeIot, BitVec.getLsbD_and, BitVec.getLsbD_append]
    interval_cases i <;> simp
  have hcode : (encodeIot code).extractLsb' 0 9 = code := by
    apply BitVec.eq_of_getLsbD_eq
    intro i hi
    simp only [encodeIot, BitVec.getLsbD_extractLsb', BitVec.getLsbD_append]
    simp [hi]
  rw [decodeMainWord_of_iot hclass, hcode]

theorem decodeDisplayWord_encodeDopr (k : Nat) (nh sync ixm iym dxm dym rjm dsp : Bool)
    (f c : BitVec 2) :
    decodeDisplayWord k (encodeDopr nh sync ixm iym dxm dym rjm dsp f c) =
      nameDopr nh sync ixm iym dxm dym rjm dsp f c := by
  have hdop : (encodeDopr nh sync ixm iym dxm dym rjm dsp f c).extractLsb' 12 3 = 0 := by
    apply BitVec.eq_of_getLsbD_eq
    intro i hi
    simp only [encodeDopr, BitVec.getLsbD_extractLsb', BitVec.getLsbD_append,
      BitVec.getLsbD_ofBool]
    interval_cases i <;> simp
  have hf : (encodeDopr nh sync ixm iym dxm dym rjm dsp f c).extractLsb' 2 2 = f := by
    apply BitVec.eq_of_getLsbD_eq
    intro i hi
    simp only [encodeDopr, BitVec.getLsbD_extractLsb', BitVec.getLsbD_append,
      BitVec.getLsbD_ofBool]
    interval_cases i <;> simp
  have hc : (encodeDopr nh sync ixm iym dxm dym rjm dsp f c).extractLsb' 0 2 = c := by
    apply BitVec.eq_of_getLsbD_eq
    intro i hi
    simp only [encodeDopr, BitVec.getLsbD_extractLsb', BitVec.getLsbD_append,
      BitVec.getLsbD_ofBool]
    interval_cases i <;> simp
  refine decodeDisplayWord_of_dopr ⟨hdop, ?_⟩
  rw [decodeDopr, hf, hc]
  simp only [encodeDopr, BitVec.getLsbD_append, BitVec.getLsbD_ofBool]
  simp

/-- A base word with zero bits below, and the operand over them. -/
theorem append_eq_or {m n : Nat} (p : BitVec m) (v : BitVec n) :
    p ++ v = (p ++ (0 : BitVec n)) ||| v.zeroExtend (m + n) := by
  apply BitVec.eq_of_getLsbD_eq
  intro i hi
  simp only [BitVec.getLsbD_append, BitVec.getLsbD_or, BitVec.getLsbD_setWidth, hi]
  by_cases hlow : i < n
  · simp [hlow]
  · simp [hlow, BitVec.getLsbD_of_ge v i (Nat.not_lt.mp hlow)]

theorem decodeHalf_encodeHalf {i : Instr} (hi : i.decoder = .half) :
    decodeHalf (encodeHalf i) = i := by
  cases i with
  | incVec beam xneg xmag yneg ymag =>
    have hxmag : (encodeHalf (.incVec beam xneg xmag yneg ymag)).extractLsb' 3 2 = xmag := by
      apply BitVec.eq_of_getLsbD_eq
      intro i hi
      simp only [encodeHalf, BitVec.getLsbD_extractLsb', BitVec.getLsbD_append,
        BitVec.getLsbD_ofBool]
      interval_cases i <;> simp
    have hymag : (encodeHalf (.incVec beam xneg xmag yneg ymag)).extractLsb' 0 2 = ymag := by
      apply BitVec.eq_of_getLsbD_eq
      intro i hi
      simp only [encodeHalf, BitVec.getLsbD_extractLsb', BitVec.getLsbD_append,
        BitVec.getLsbD_ofBool]
      interval_cases i <;> simp
    rw [decodeHalf_of_vector (by simp only [encodeHalf, BitVec.getLsbD_append]; simp), hxmag, hymag]
    simp only [encodeHalf, BitVec.getLsbD_append, BitVec.getLsbD_ofBool]
    simp
  | incCtl esc rjm ixm zxl iym zyl =>
    rw [decodeHalf_of_control (by simp only [encodeHalf, BitVec.getLsbD_append]; simp)]
    simp only [encodeHalf, BitVec.getLsbD_append, BitVec.getLsbD_ofBool]
    simp
  | _ => cases hi

/-! ### The unassigned rows keep their word (R89, R99) -/

theorem decodeOrder_of_op_zero {w : Word} (hop : w.extractLsb' 11 4 = 0) :
    decodeOrder w = if w &&& 0xFE00 = 0x8200 then .unassignedIot w else .unassignedShift w := by
  rw [decodeOrder, hop]
  rfl

theorem decodeOrder_of_op_three {w : Word} (hop : w.extractLsb' 11 4 = 3) :
    decodeOrder w = .unassignedOrder3 w := by
  rw [decodeOrder, hop]
  rfl

theorem decodeOrder_of_op_eight {w : Word} (hop : w.extractLsb' 11 4 = 8) :
    decodeOrder w = .unassignedOrder8 w := by
  rw [decodeOrder, hop]
  rfl

theorem decodeMainWord_of_no_test {w : Word} (hopr : w &&& 0x7E00 ≠ 0) (hshift : w &&& 0xFE00 ≠ 0x0600)
    (hskp : w &&& 0x7E00 ≠ 0x0400) (hiot : w &&& 0xFE00 ≠ 0x0200) :
    decodeMainWord w = decodeOrder w := by
  rw [decodeMainWord, if_neg hopr, if_neg hshift, if_neg hskp, if_neg hiot]

theorem decodeMainWord_of_unassignedIot {w : Word} (h : w &&& 0xFE00 = 0x8200) :
    decodeMainWord w = .unassignedIot w := by
  have hop : w.extractLsb' 11 4 = 0 := op_of_and_eq h (by decide)
  rw [decodeMainWord_of_no_test (and_ne_of_and_eq h (by decide)) (and_ne_of_and_eq h (by decide))
    (and_ne_of_and_eq h (by decide)) (and_ne_of_and_eq h (by decide)), decodeOrder_of_op_zero hop,
    if_pos h]

theorem decodeMainWord_of_unassignedShift {w : Word} (h : w &&& 0xFE00 = 0x8600) :
    decodeMainWord w = .unassignedShift w := by
  have hop : w.extractLsb' 11 4 = 0 := op_of_and_eq h (by decide)
  rw [decodeMainWord_of_no_test (and_ne_of_and_eq h (by decide)) (and_ne_of_and_eq h (by decide))
    (and_ne_of_and_eq h (by decide)) (and_ne_of_and_eq h (by decide)), decodeOrder_of_op_zero hop,
    if_neg (and_ne_of_and_eq h (by decide))]

theorem decodeMainWord_of_unassignedOrder3 {w : Word} (h : w &&& 0x7800 = 0x1800) :
    decodeMainWord w = .unassignedOrder3 w := by
  have hop : w.extractLsb' 11 4 = 3 := op_of_and_eq h (by decide)
  rw [decodeMainWord_of_op_ne_zero (by simp [hop]), decodeOrder_of_op_three hop]

theorem decodeMainWord_of_unassignedOrder8 {w : Word} (h : w &&& 0x7800 = 0x4000) :
    decodeMainWord w = .unassignedOrder8 w := by
  have hop : w.extractLsb' 11 4 = 8 := op_of_and_eq h (by decide)
  rw [decodeMainWord_of_op_ne_zero (by simp [hop]), decodeOrder_of_op_eight hop]

/-- DOP = 7 is SGR1 or has no decoding (R98, R99). -/
theorem decodeDisplayWord_of_dop_seven {k : Nat} {w : Word} (hdop : w.extractLsb' 12 3 = 7) :
    decodeDisplayWord k w =
      if w &&& sgr1Mask = sgr1Match then .sgr1 (w.getLsbD 2) (w.getLsbD 1) (w.getLsbD 0)
      else .unassignedDisplay w := by
  rw [decodeDisplayWord, hdop]
  rfl

theorem decodeDisplayWord_of_dlvh {k : Nat} {w : Word} (hdop : w.extractLsb' 12 3 = 4) :
    decodeDisplayWord k w = .dlvh (w.extractLsb' 0 12) := by
  rw [decodeDisplayWord, hdop]
  rfl

theorem decodeDisplayWord_of_djms {k : Nat} {w : Word} (hdop : w.extractLsb' 12 3 = 5) :
    decodeDisplayWord k w = .djms (branchField k (w.extractLsb' 0 12)) := by
  rw [decodeDisplayWord, hdop]
  rfl

theorem decodeDisplayWord_of_djmp {k : Nat} {w : Word} (hdop : w.extractLsb' 12 3 = 6) :
    decodeDisplayWord k w = .djmp (branchField k (w.extractLsb' 0 12)) := by
  rw [decodeDisplayWord, hdop]
  rfl

/-- The words of DJMS and DJMP with any data field (R97). -/
theorem decodeDisplayWord_djms (k : Nat) (a : BitVec 12) :
    decodeDisplayWord k (0x5000 ||| a.zeroExtend 16) = .djms (branchField k a) := by
  rw [decodeDisplayWord_of_djms (dop_or_operand 0x5000 a (by decide)),
    operand_or_operand 0x5000 a (by decide) (by decide)]

theorem decodeDisplayWord_djmp (k : Nat) (a : BitVec 12) :
    decodeDisplayWord k (0x6000 ||| a.zeroExtend 16) = .djmp (branchField k a) := by
  rw [decodeDisplayWord_of_djmp (dop_or_operand 0x6000 a (by decide)),
    operand_or_operand 0x6000 a (by decide) (by decide)]

/-- The mask of DOP determines it. -/
theorem dop_of_and_eq {w m v : Word} (h : w &&& m = v)
    (hm : m.extractLsb' 12 3 = BitVec.allOnes 3) : w.extractLsb' 12 3 = v.extractLsb' 12 3 := by
  rw [← h, BitVec.extractLsb'_and, hm, BitVec.and_allOnes]

/-! ### The round trip -/

theorem decodeMainWord_encodeWord {k : Nat} {i : Instr} (hi : i.decoder = .main)
    (hwf : i.wf k = true) : decodeMainWord (encodeWord i) = i := by
  cases i with
  | opr =>
    exact (decodeMainWord_encodeOpr ..).trans (nameOpr_of_not_named ((Bool.not_eq_true' _).mp hwf))
  | hlt | nop | cla | cma | sta | iac | coa | cia | cll | cal | cml | stl | oda | lda =>
    exact decodeMainWord_encodeOpr ..
  | ral =>
    exact (decodeMainWord_encodeShift ..).trans (nameRal_of_not_named ((Bool.not_eq_true' _).mp hwf))
  | rar | sal | sar | don => exact decodeMainWord_encodeShift ..
  | skp =>
    exact (decodeMainWord_encodeSkp ..).trans (nameSkp_of_not_named ((Bool.not_eq_true' _).mp hwf))
  | asz | asn | asp | asm | lsz | lsn | dsf | dsn | ksf | ksn | rsf | rsn | tsf | tsn | ssf | ssn
  | hsf | hsn => exact decodeMainWord_encodeSkp ..
  | iot =>
    exact (decodeMainWord_encodeIot _).trans (nameIot_of_not_named ((Bool.not_eq_true' _).mp hwf))
  | dla | dof | scf | drs => exact decodeMainWord_encodeIot _
  | law imm => exact decodeMainWord_encodeOrder (op := 0x1) (List.mem_cons_self ..) false imm
  | lwc imm => exact decodeMainWord_encodeOrder (op := 0x1) (List.mem_cons_self ..) true imm
  | jmp | dac | xam | isz | jms | and | ior | xor | lac | add | sub | sam =>
    exact decodeMainWord_encodeOrder (by simp [orderRows]) _ _
  | unassignedIot => exact decodeMainWord_of_unassignedIot (eq_of_beq hwf)
  | unassignedShift => exact decodeMainWord_of_unassignedShift (eq_of_beq hwf)
  | unassignedOrder3 => exact decodeMainWord_of_unassignedOrder3 (eq_of_beq hwf)
  | unassignedOrder8 => exact decodeMainWord_of_unassignedOrder8 (eq_of_beq hwf)
  | _ => cases hi

theorem decodeDisplayWord_encodeWord {k : Nat} {i : Instr} (hi : i.decoder = .display)
    (hwf : i.wf k = true) : decodeDisplayWord k (encodeWord i) = i := by
  cases i with
  | dopr =>
    exact (decodeDisplayWord_encodeDopr ..).trans
      (nameDopr_of_not_named ((Bool.not_eq_true' _).mp hwf))
  | dhlt | dnop | dhvc | dixm | diym | ddxm | ddym | drjm | ddsp | dsts | dstb | dlpn =>
    exact decodeDisplayWord_encodeDopr ..
  | dlxa v =>
    have hword : encodeWord (.dlxa v) = 0x1000 ||| v.zeroExtend 16 := append_eq_or _ v
    rw [hword, decodeDisplayWord_of_dlxa (dop_or_operand 0x1000 v (by decide)),
      operand_or_operand 0x1000 v (by decide) (by decide)]
  | dlya v =>
    have hword : encodeWord (.dlya v) = 0x2000 ||| v.zeroExtend 16 := append_eq_or _ v
    rw [hword, decodeDisplayWord_of_dlya (dop_or_operand 0x2000 v (by decide)),
      operand_or_operand 0x2000 v (by decide) (by decide)]
  | deim b =>
    have hword : encodeWord (.deim b) = 0x3000 ||| b.zeroExtend 16 := append_eq_or _ b
    rw [hword, decodeDisplayWord_of_deim (dop_or_operand 0x3000 b (by decide)),
      operand_or_operand 0x3000 b (by decide) (by decide)]
  | dlvh hint =>
    have hword : encodeWord (.dlvh hint) = 0x4000 ||| hint.zeroExtend 16 := append_eq_or _ hint
    rw [hword, decodeDisplayWord_of_dlvh (dop_or_operand 0x4000 hint (by decide)),
      operand_or_operand 0x4000 hint (by decide) (by decide)]
  | djms a =>
    have hword : encodeWord (.djms a) = 0x5000 ||| a.zeroExtend 16 := append_eq_or _ a
    rw [hword, decodeDisplayWord_djms, branchField_of_lt (of_decide_eq_true hwf)]
  | djmp a =>
    have hword : encodeWord (.djmp a) = 0x6000 ||| a.zeroExtend 16 := append_eq_or _ a
    rw [hword, decodeDisplayWord_djmp, branchField_of_lt (of_decide_eq_true hwf)]
  | sgr1 beam ret enter =>
    cases beam <;> cases ret <;> cases enter <;> exact decodeDisplayWord_of_dop_seven (by decide)
  | unassignedDisplay w =>
    obtain ⟨hdop, hmiss⟩ := Bool.and_eq_true_iff.mp hwf
    have hseven : w.extractLsb' 12 3 = 7 := dop_of_and_eq (eq_of_beq hdop) (by decide)
    exact (decodeDisplayWord_of_dop_seven hseven).trans (if_neg (bne_iff_ne.mp hmiss))
  | _ => cases hi

theorem encode_of_word {i : Instr} (hi : i.decoder ≠ .half) :
    encode i = [(encodeWord i).extractLsb' 8 8, (encodeWord i).extractLsb' 0 8] := by
  unfold encode
  split
  next h => exact absurd h hi
  next => rfl

theorem encode_of_half {i : Instr} (hi : i.decoder = .half) : encode i = [encodeHalf i] := by
  rw [encode, hi]

/-- Settles O1: a word's two bytes are put together again, and the round trip of its decoder. -/
theorem decodeOfEncode : Obligations.DecodeOfEncode := by
  intro k i rest hwf
  cases hi : i.decoder with
  | main =>
    rw [encode_of_word (by simp [hi])]
    simp only [List.cons_append, List.nil_append, decode, append_halves,
      decodeMainWord_encodeWord hi hwf]
  | display =>
    rw [encode_of_word (by simp [hi])]
    simp only [List.cons_append, List.nil_append, decode, append_halves,
      decodeDisplayWord_encodeWord hi hwf]
  | half =>
    rw [encode_of_half hi]
    simp only [List.cons_append, List.nil_append, decode, decodeHalf_encodeHalf hi]

end Sys2Proof.RoundTrip
end

section
/-! Every word has exactly one meaning (spec 30_encoding.md R89, R98, R99, R103): which words are left
without a decoding, and the record of every display word (R92, R101). -/

namespace Sys2Proof.EveryWord

open Sys2Proof.Machine Sys2Proof.Encoding Sys2Proof.OrderWords Sys2Proof.DisplayWords
  Sys2Proof.RoundTrip

/-! ### Masks in numbers -/

/-- A mask of `n` bits from bit `m` on, in numbers. -/
theorem and_mask_toNat {mask : Word} {m n : Nat} (hmask : mask.toNat = (2 ^ n - 1) <<< m) (w : Word) :
    (w &&& mask).toNat = w.toNat / 2 ^ m % 2 ^ n * 2 ^ m := by
  rw [BitVec.toNat_and, hmask, ← Nat.shiftLeft_eq]
  apply Nat.eq_of_testBit_eq
  intro i
  simp only [Nat.testBit_and, Nat.testBit_shiftLeft, Nat.testBit_two_pow_sub_one,
    Nat.testBit_mod_two_pow, Nat.testBit_div_two_pow]
  by_cases hi : m ≤ i
  · simp [hi, Bool.and_comm]
  · simp [hi]

theorem and_eq_iff {mask : Word} {m n : Nat} (hmask : mask.toNat = (2 ^ n - 1) <<< m) (w v : Word) :
    w &&& mask = v ↔ w.toNat / 2 ^ m % 2 ^ n * 2 ^ m = v.toNat := by
  rw [← BitVec.toNat_inj, and_mask_toNat hmask]

theorem and_class_eq_iff (w v : Word) :
    w &&& 0xFE00 = v ↔ w.toNat / 2 ^ 9 % 2 ^ 7 * 2 ^ 9 = v.toNat := and_eq_iff rfl w v

theorem and_oprClass_eq_iff (w v : Word) :
    w &&& 0x7E00 = v ↔ w.toNat / 2 ^ 9 % 2 ^ 6 * 2 ^ 9 = v.toNat := and_eq_iff rfl w v

theorem and_op_eq_iff (w v : Word) :
    w &&& 0x7800 = v ↔ w.toNat / 2 ^ 11 % 2 ^ 4 * 2 ^ 11 = v.toNat := and_eq_iff rfl w v

theorem and_dop_eq_iff (w v : Word) :
    w &&& 0x7000 = v ↔ w.toNat / 2 ^ 12 % 2 ^ 3 * 2 ^ 12 = v.toNat := and_eq_iff rfl w v

theorem op_eq_iff (w : Word) (op : BitVec 4) :
    w.extractLsb' 11 4 = op ↔ w.toNat / 2 ^ 11 % 2 ^ 4 = op.toNat := by
  rw [← BitVec.toNat_inj, BitVec.extractLsb'_toNat, Nat.shiftRight_eq_div_pow]

theorem dop_eq_iff (w : Word) (dop : BitVec 3) :
    w.extractLsb' 12 3 = dop ↔ w.toNat / 2 ^ 12 % 2 ^ 3 = dop.toNat := by
  rw [← BitVec.toNat_inj, BitVec.extractLsb'_toNat, Nat.shiftRight_eq_div_pow]

/-! ### Every Main word -/

section

variable {k : Nat} {w : Word}

theorem decoder_of_expand {i row : Instr} (h : i.expand = row) : i.decoder = row.decoder := by
  rw [← h, expand_decoder]

theorem isUnassigned_of_expand {i row : Instr} (h : i.expand = row) :
    isUnassigned i = isUnassigned row := by
  rw [← h, isUnassigned_expand]

/-- A well-formed, assigned instruction of the Main Processor. -/
structure AssignedMain (k : Nat) (i : Instr) : Prop where
  wf : i.wf k = true
  decoder : i.decoder = .main
  assigned : isUnassigned i = false

theorem decodeOpr_assigned (k : Nat) (w : Word) : AssignedMain k (decodeOpr w) :=
  ⟨nameOpr_wf, decoder_of_expand (expand_nameOpr ..), isUnassigned_of_expand (expand_nameOpr ..)⟩

theorem decodeSkp_assigned (k : Nat) (w : Word) : AssignedMain k (decodeSkp w) :=
  ⟨nameSkp_wf, decoder_of_expand (expand_nameSkp ..), isUnassigned_of_expand (expand_nameSkp ..)⟩

theorem nameIot_assigned (k : Nat) (code : IotCode) : AssignedMain k (nameIot code) :=
  ⟨nameIot_wf, decoder_of_expand (expand_nameIot _), isUnassigned_of_expand (expand_nameIot _)⟩

theorem decodeShift_assigned (k : Nat) (w : Word) : AssignedMain k (decodeShift w) := by
  unfold decodeShift
  split
  next =>
    exact ⟨nameRal_wf, decoder_of_expand (expand_nameRal ..),
      isUnassigned_of_expand (expand_nameRal ..)⟩
  all_goals exact ⟨rfl, rfl, rfl⟩

theorem orderRows_assigned {op : BitVec 4} {row : Bool → BitVec 11 → Instr}
    (hrow : (op, row) ∈ orderRows) (k : Nat) (ind : Bool) (d : BitVec 11) :
    AssignedMain k (row ind d) := by
  simp only [orderRows, List.mem_cons, List.not_mem_nil, or_false, Prod.mk.injEq] at hrow
  rcases hrow with ⟨-, rfl⟩ | hrow
  · cases ind <;> exact ⟨rfl, rfl, rfl⟩
  · rcases hrow with h | h | h | h | h | h | h | h | h | h | h | h
    all_goals
      obtain ⟨-, rfl⟩ := h
      exact ⟨rfl, rfl, rfl⟩

/-- An OP is 0, 3 or 8, or selects an assigned row (R87, R89). -/
theorem op_cases (op : BitVec 4) :
    op = 0 ∨ op = 3 ∨ op = 8 ∨ ∃ row, (op, row) ∈ orderRows := by
  have hall : ∀ op : BitVec 4, op = 0 ∨ op = 3 ∨ op = 8 ∨ op ∈ orderRows.map Prod.fst := by decide
  simpa using hall op

/-- Every Main word decodes to an assigned instruction, or has no decoding and is in the range of the
row that keeps it (R89). -/
inductive MainWord (w : Word) : Prop where
  | assigned (h : ∀ k, AssignedMain k (decodeMainWord w))
      (range : ¬ (w.toNat / 2 ^ 9 % 2 ^ 7 = 0x41 ∨ w.toNat / 2 ^ 9 % 2 ^ 7 = 0x43
        ∨ w.toNat / 2 ^ 11 % 2 ^ 4 = 3 ∨ w.toNat / 2 ^ 11 % 2 ^ 4 = 8))
  | iot (decode_eq : decodeMainWord w = .unassignedIot w) (range : w.toNat / 2 ^ 9 % 2 ^ 7 = 0x41)
  | shift (decode_eq : decodeMainWord w = .unassignedShift w)
      (range : w.toNat / 2 ^ 9 % 2 ^ 7 = 0x43)
  | order3 (decode_eq : decodeMainWord w = .unassignedOrder3 w)
      (range : w.toNat / 2 ^ 11 % 2 ^ 4 = 3)
  | order8 (decode_eq : decodeMainWord w = .unassignedOrder8 w)
      (range : w.toNat / 2 ^ 11 % 2 ^ 4 = 8)

theorem op_ne_of_mem_orderRows {op : BitVec 4} {row : Bool → BitVec 11 → Instr}
    (hrow : (op, row) ∈ orderRows) : op ≠ 0 ∧ op ≠ 3 ∧ op ≠ 8 := by
  have hall : ∀ e ∈ orderRows, e.1 ≠ 0 ∧ e.1 ≠ 3 ∧ e.1 ≠ 8 := by simp [orderRows]
  exact hall _ hrow

/-- The cascade of R82, test by test. -/
theorem mainWord (w : Word) : MainWord w := by
  by_cases hopr : w &&& 0x7E00 = 0
  · refine .assigned (fun k => ?_) ?_
    · rw [decodeMainWord_of_opr hopr]
      exact decodeOpr_assigned k w
    · rw [and_oprClass_eq_iff] at hopr
      bv_omega
  by_cases hshift : w &&& 0xFE00 = 0x0600
  · refine .assigned (fun k => ?_) ?_
    · rw [decodeMainWord_of_shift hshift]
      exact decodeShift_assigned k w
    · rw [and_class_eq_iff] at hshift
      bv_omega
  by_cases hskp : w &&& 0x7E00 = 0x0400
  · refine .assigned (fun k => ?_) ?_
    · rw [decodeMainWord_of_skp hskp]
      exact decodeSkp_assigned k w
    · rw [and_oprClass_eq_iff] at hskp
      bv_omega
  by_cases hiot : w &&& 0xFE00 = 0x0200
  · refine .assigned (fun k => ?_) ?_
    · rw [decodeMainWord_of_iot hiot]
      exact nameIot_assigned k _
    · rw [and_class_eq_iff] at hiot
      bv_omega
  have horder : decodeMainWord w = decodeOrder w :=
    decodeMainWord_of_no_test hopr hshift hskp hiot
  rcases op_cases (w.extractLsb' 11 4) with hop | hop | hop | ⟨row, hrow⟩
  · rw [decodeOrder_of_op_zero hop] at horder
    split at horder
    next h8200 =>
      rw [and_class_eq_iff] at h8200
      exact .iot horder (by bv_omega)
    next h8200 =>
      rw [op_eq_iff] at hop
      rw [and_class_eq_iff] at hshift hiot h8200
      rw [and_oprClass_eq_iff] at hopr hskp
      exact .shift horder (by bv_omega)
  · exact .order3 (horder.trans (decodeOrder_of_op_three hop)) ((op_eq_iff _ _).mp hop)
  · exact .order8 (horder.trans (decodeOrder_of_op_eight hop)) ((op_eq_iff _ _).mp hop)
  · refine .assigned (fun k => ?_) ?_
    · rw [horder, decodeOrder_of_mem_orderRows hrow rfl]
      exact orderRows_assigned hrow k _ _
    · have hne := op_ne_of_mem_orderRows hrow
      simp only [ne_eq, op_eq_iff] at hne
      bv_omega

theorem decodeMainWord_decoder (w : Word) : (decodeMainWord w).decoder = .main := by
  cases mainWord w with
  | assigned h => exact (h 0).decoder
  | iot h | shift h | order3 h | order8 h => rw [h]; rfl

theorem decodeMainWord_wf (k : Nat) (w : Word) : (decodeMainWord w).wf k = true := by
  cases mainWord w with
  | assigned h => exact (h k).wf
  | iot h range | shift h range =>
    rw [h]
    refine beq_iff_eq.mpr ((and_class_eq_iff _ _).mpr ?_)
    rw [range]
    rfl
  | order3 h range | order8 h range =>
    rw [h]
    refine beq_iff_eq.mpr ((and_op_eq_iff _ _).mpr ?_)
    rw [range]
    rfl

/-- An unassigned Main word is kept whole by its row (R89). -/
theorem exec_of_unassigned_main {w : Word} (h : isUnassigned (decodeMainWord w) = true) (s : State) :
    exec (decodeMainWord w) s = .fault (.unimplementedInstruction w s.main.pc) := by
  cases mainWord w with
  | assigned hassigned => simp [(hassigned 0).assigned] at h
  | iot hw | shift hw | order3 hw | order8 hw => rw [hw]; rfl

/-! ### Every display word -/

theorem decodeDopr_wf (k : Nat) (w : Word) : (decodeDopr w).wf k = true := nameDopr_wf

theorem expand_decodeDopr (w : Word) :
    (decodeDopr w).expand =
      .dopr (w.getLsbD 11) (w.getLsbD 10) (w.getLsbD 9) (w.getLsbD 8) (w.getLsbD 7) (w.getLsbD 6)
        (w.getLsbD 5) (w.getLsbD 4) (w.extractLsb' 2 2) (w.extractLsb' 0 2) := expand_nameDopr

theorem branchField_wf (k : Nat) (a : BitVec 12) : decide ((branchField k a).toNat < 2 ^ k) = true := by
  rw [branchField_toNat]
  exact decide_eq_true (Nat.mod_lt _ (Nat.two_pow_pos k))

theorem dop_cases (dop : BitVec 3) :
    dop = 0 ∨ dop = 1 ∨ dop = 2 ∨ dop = 3 ∨ dop = 4 ∨ dop = 5 ∨ dop = 6 ∨ dop = 7 := by
  revert dop
  decide

/-- Every display word decodes to an assigned instruction, or has DOP = 7 and misses the pattern of
SGR1 (R98, R99). -/
inductive DisplayWord (k : Nat) (w : Word) : Prop where
  | assigned (i : Instr) (decode_eq : decodeDisplayWord k w = i) (wf : i.wf k = true)
      (decoder : i.decoder = .display) (assigned : isUnassigned i = false)
      (range : ¬ (w &&& 0x7000 = 0x7000 ∧ w &&& sgr1Mask ≠ sgr1Match))
  | unassigned (decode_eq : decodeDisplayWord k w = .unassignedDisplay w)
      (dop : w &&& 0x7000 = 0x7000) (miss : w &&& sgr1Mask ≠ sgr1Match)

theorem and_dop_eq_iff_dop (w : Word) : w &&& 0x7000 = 0x7000 ↔ w.extractLsb' 12 3 = 7 := by
  rw [and_dop_eq_iff, dop_eq_iff]
  bv_omega

theorem displayWord (k : Nat) (w : Word) : DisplayWord k w := by
  have hlow : w.extractLsb' 12 3 ≠ 7 → ¬ (w &&& 0x7000 = 0x7000 ∧ w &&& sgr1Mask ≠ sgr1Match) :=
    fun hne h => hne ((and_dop_eq_iff_dop w).mp h.1)
  rcases dop_cases (w.extractLsb' 12 3) with h | h | h | h | h | h | h | h
  · exact .assigned _ (decodeDisplayWord_of_dopr ⟨h, rfl⟩) (decodeDopr_wf k w)
      (decoder_of_expand (expand_decodeDopr w)) (isUnassigned_of_expand (expand_decodeDopr w))
      (hlow (by simp [h]))
  · exact .assigned _ (decodeDisplayWord_of_dlxa h) rfl rfl rfl (hlow (by simp [h]))
  · exact .assigned _ (decodeDisplayWord_of_dlya h) rfl rfl rfl (hlow (by simp [h]))
  · exact .assigned _ (decodeDisplayWord_of_deim h) rfl rfl rfl (hlow (by simp [h]))
  · exact .assigned _ (decodeDisplayWord_of_dlvh h) rfl rfl rfl (hlow (by simp [h]))
  · exact .assigned _ (decodeDisplayWord_of_djms h) (branchField_wf k _) rfl rfl (hlow (by simp [h]))
  · exact .assigned _ (decodeDisplayWord_of_djmp h) (branchField_wf k _) rfl rfl (hlow (by simp [h]))
  · have hw := decodeDisplayWord_of_dop_seven (k := k) h
    by_cases hmatch : w &&& sgr1Mask = sgr1Match
    · rw [if_pos hmatch] at hw
      exact .assigned _ hw rfl rfl rfl fun hrange => hrange.2 hmatch
    · rw [if_neg hmatch] at hw
      exact .unassigned hw ((and_dop_eq_iff_dop w).mpr h) hmatch

theorem decodeDisplayWord_decoder (k : Nat) (w : Word) :
    (decodeDisplayWord k w).decoder = .display := by
  cases displayWord k w with
  | assigned i h _ hdecoder => rw [h, hdecoder]
  | unassigned h => rw [h]; rfl

theorem decodeDisplayWord_wf (k : Nat) (w : Word) : (decodeDisplayWord k w).wf k = true := by
  cases displayWord k w with
  | assigned i h hwf => rw [h, hwf]
  | unassigned h hdop hmiss =>
    rw [h]
    exact Bool.and_eq_true_iff.mpr ⟨beq_iff_eq.mpr hdop, bne_iff_ne.mpr hmiss⟩

/-- An unassigned display word is kept whole by its row (R99). -/
theorem exec_of_unassigned_display {k : Nat} {w : Word}
    (h : isUnassigned (decodeDisplayWord k w) = true) (s : State) :
    exec (decodeDisplayWord k w) s = .fault (.unimplementedInstruction w s.disp.dpc) := by
  cases displayWord k w with
  | assigned i hw _ _ hassigned => simp [hw, hassigned] at h
  | unassigned hw => rw [hw]; rfl

/-! ### Halves (R100) -/

/-- Bit 7 selects one of two formats, and both take every value of the others. -/
theorem decodeHalf_cases (h : Byte) :
    (decodeHalf h).decoder = .half ∧ (∀ k, (decodeHalf h).wf k = true)
      ∧ isUnassigned (decodeHalf h) = false := by
  unfold decodeHalf
  split
  next => exact ⟨rfl, fun _ => rfl, rfl⟩
  next => exact ⟨rfl, fun _ => rfl, rfl⟩

/-! ### The record of a display word (R92, R101) -/

theorem encodeDopr_data (w : Word) :
    (encodeDopr (w.getLsbD 11) (w.getLsbD 10) (w.getLsbD 9) (w.getLsbD 8) (w.getLsbD 7) (w.getLsbD 6)
      (w.getLsbD 5) (w.getLsbD 4) (w.extractLsb' 2 2) (w.extractLsb' 0 2)).extractLsb' 0 12 =
      w.extractLsb' 0 12 := by
  apply BitVec.eq_of_getLsbD_eq
  intro i hi
  simp only [encodeDopr, BitVec.getLsbD_extractLsb', BitVec.getLsbD_append, BitVec.getLsbD_ofBool]
  interval_cases i <;> simp

theorem sgr1_data (w : Word) :
    (BitVec.ofBool (w.getLsbD 2) ++ BitVec.ofBool (w.getLsbD 1) ++ BitVec.ofBool (w.getLsbD 0)
      : BitVec 3).zeroExtend 12 = (w.extractLsb' 0 3).zeroExtend 12 := by
  apply BitVec.eq_of_getLsbD_eq
  intro i hi
  simp only [BitVec.getLsbD_setWidth, BitVec.getLsbD_extractLsb', BitVec.getLsbD_append,
    BitVec.getLsbD_ofBool]
  interval_cases i <;> simp

theorem branchField_data (k : Nat) (w : Word) :
    branchField k (w.extractLsb' 0 12) = BitVec.ofNat 12 (w.toNat % 2 ^ 12 % 2 ^ k) := by
  rw [branchField, BitVec.extractLsb'_toNat, Nat.shiftRight_zero]

/-- The pattern of SGR1 with its opcode bits (R98). -/
theorem sgr1_of_and_eq {w : Word} (h : w &&& 0x7FF8 = 0x7FC8) :
    w.extractLsb' 12 3 = 7 ∧ w &&& sgr1Mask = sgr1Match := by
  refine ⟨dop_of_and_eq h (by decide), ?_⟩
  calc w &&& sgr1Mask = w &&& (0x7FF8 &&& sgr1Mask) := by rfl
    _ = w &&& 0x7FF8 &&& sgr1Mask := (BitVec.and_assoc ..).symm
    _ = sgr1Match := by rw [h]; rfl

/-! ### The obligations -/

/-- Settles O2: the two cascades end in a row for every word. -/
theorem everyWordDecodes : Obligations.EveryWordDecodes := by
  refine fun k => ⟨fun w => ?main, fun w => ?display, fun h => ?half⟩
  case main => exact ⟨decodeMainWord_wf k w, decodeMainWord_decoder w⟩
  case display => exact ⟨decodeDisplayWord_wf k w, decodeDisplayWord_decoder k w⟩
  case half =>
    obtain ⟨hdecoder, hwf, -⟩ := decodeHalf_cases h
    exact ⟨hwf k, hdecoder⟩

/-- Settles O3: the ranges are those of the bits that `MainWord` and `DisplayWord` name. -/
theorem unassignedWords : Obligations.UnassignedWords := by
  refine ⟨fun w => ?main, fun k w => ?display, fun h => ?half⟩
  case main =>
    simp only [BitVec.le_def]
    cases mainWord w with
    | assigned h range =>
      simp only [(h 0).assigned, Bool.false_eq_true, false_iff]
      bv_omega
    | iot h range | shift h range | order3 h range | order8 h range =>
      simp only [h, isUnassigned, true_iff]
      bv_omega
  case display =>
    cases displayWord k w with
    | assigned i h _ _ hassigned range =>
      simp only [h, hassigned, Bool.false_eq_true, false_iff]
      exact range
    | unassigned h hdop hmiss =>
      simp only [h, isUnassigned, true_iff]
      exact ⟨hdop, hmiss⟩
  case half =>
    obtain ⟨-, -, hassigned⟩ := decodeHalf_cases h
    exact hassigned

/-- Settles O5: DOP selects the row, and the row's operand is its record's data. -/
theorem displayRecordOfWord : Obligations.DisplayRecordOfWord := by
  refine fun k w => ⟨fun h => ?dopr, fun h => ?dlxa, fun h => ?dlya, fun h => ?deim, fun h => ?dlvh,
    fun e he h => ?branch, fun h => ?sgr1, fun h hmiss => ?none⟩
  case dopr =>
    rw [decodeDisplayWord_of_dopr ⟨h, rfl⟩, displayRecord, expand_decodeDopr]
    simp only [encodeDopr_data]
  case dlxa => rw [decodeDisplayWord_of_dlxa h]; rfl
  case dlya => rw [decodeDisplayWord_of_dlya h]; rfl
  case deim => rw [decodeDisplayWord_of_deim h]; rfl
  case dlvh => rw [decodeDisplayWord_of_dlvh h]; rfl
  case branch =>
    rw [← branchField_data]
    fin_cases he
    · rw [decodeDisplayWord_of_djms h]; rfl
    · rw [decodeDisplayWord_of_djmp h]; rfl
  case sgr1 =>
    obtain ⟨hdop, hmatch⟩ := sgr1_of_and_eq h
    rw [decodeDisplayWord_of_dop_seven hdop, if_pos hmatch, ← sgr1_data]
    rfl
  case none =>
    have hmiss' : w &&& sgr1Mask ≠ sgr1Match := hmiss
    rw [decodeDisplayWord_of_dop_seven ((and_dop_eq_iff_dop w).mp h), if_neg hmiss']
    rfl

/-- Settles O6: each decoder run on two bytes, or one. -/
theorem sampleWordsDecode : Obligations.SampleWordsDecode :=
  ⟨rfl, rfl, rfl, rfl, rfl, rfl, rfl, rfl, rfl, rfl, rfl⟩

/-- Settles O29: each of the five meanings is the raising of the error. -/
theorem unassignedRowsAreFatal : Obligations.UnassignedRowsAreFatal :=
  fun _ _ => ⟨rfl, rfl, rfl, rfl, rfl⟩

end

end Sys2Proof.EveryWord
end

section
/-! The single changes that the Display Processor's instructions are made of (spec 44 R252 to R277, 45 R302 to
R306): an instruction that goes on is a chain of them, so that what each single change keeps, the
instruction keeps. -/

namespace Sys2Proof.Changes

open Sys2Proof.Machine Sys2Proof.DisplayEffects Sys2Proof.IncrementEffects Relation

/-! ### The ranges of the two register files (R41) -/

/-- The Main Processor's part of `registersInRange`. -/
structure MainInRange (p : Params) (m : MainRegs) : Prop where
  pc : inRange p m.pc
  ea : inRange p m.ea
  bp : inRange p m.bpAddr

/-- The Display Processor's part of `registersInRange`. -/
structure DispInRange (p : Params) (d : DispRegs) : Prop where
  dpc : inRange p d.dpc
  dentry : inRange p d.dentry
  bp : inRange p d.bpAddr
  dstack : ∀ a ∈ d.dstack, inRange p a
  block : d.block.toNat < 2 ^ (p.addrBits - p.dblockBits)
  scale : 1 ≤ d.scale ∧ d.scale ≤ 3
  frameCnt : d.frameCnt ≤ p.frameCycles

theorem registersInRange_iff (s : State) :
    registersInRange s ↔ MainInRange s.params s.main ∧ DispInRange s.params s.disp := by
  constructor
  · intro h
    exact ⟨⟨h.pc, h.ea, h.mainBp⟩,
      ⟨h.dpc, h.dentry, h.dispBp, h.dstack, h.block, h.scale, h.frameCnt⟩⟩
  · rintro ⟨hm, hd⟩
    exact ⟨hm.pc, hm.ea, hm.bp, hd.dpc, hd.dentry, hd.bp, hd.dstack, hd.block, hd.scale, hd.frameCnt⟩

theorem blockMask_toNat_lt (p : Params) (v : Word) :
    (v &&& blockMask p).toNat < 2 ^ (p.addrBits - p.dblockBits) := by
  have hpos : 0 < 2 ^ (p.addrBits - p.dblockBits) := Nat.two_pow_pos _
  have hmask : (blockMask p).toNat ≤ 2 ^ (p.addrBits - p.dblockBits) - 1 := by
    rw [blockMask, BitVec.toNat_ofNat]
    exact Nat.mod_le _ _
  have hand : (v &&& blockMask p).toNat ≤ (blockMask p).toNat := by
    rw [BitVec.toNat_and]
    exact Nat.and_le_right
  omega

/-- The block of an address the memory has (R237). -/
theorem ushiftRight_toNat_lt {p : Params} {a : Word} (h : inRange p a) :
    (a >>> p.dblockBits).toNat < 2 ^ (p.addrBits - p.dblockBits) := by
  rw [BitVec.toNat_ushiftRight, Nat.shiftRight_eq_div_pow,
    Nat.div_lt_iff_lt_mul (Nat.two_pow_pos _), ← Nat.pow_add]
  exact Nat.lt_of_lt_of_le h (Nat.pow_le_pow_right (by omega) (by omega))

theorem scaleOf_range (c : BitVec 2) : 1 ≤ scaleOf c ∧ scaleOf c ≤ 3 := by
  revert c
  decide

/-! ### The changes a display instruction makes -/

/-- One change that an instruction of the Display Processor makes. It does not touch the frame counter
or the latch, and never emits the counter's event (R251). -/
inductive DispChange (s : State) : State → Prop where
  | registers (d : DispRegs) (range : DispInRange s.params s.disp → DispInRange s.params d)
      (frameCnt_eq : d.frameCnt = s.disp.frameCnt) (frameLatch_eq : d.frameLatch = s.disp.frameLatch) :
      DispChange s { s with disp := d }
  | event (e : SinkEvent) (he : e ≠ .frameDone) : DispChange s (emit e s)
  | log (e : LogEvent) : DispChange s (logEvent e s)
  | tag (a : Word) (m : DisplayMode) (ha : inRange s.params a) :
      DispChange s { s with usage := insertAt a.toNat m s.usage }

/-- What a display instruction does: a chain of its changes. -/
abbrev DispWork : State → State → Prop := ReflTransGen DispChange

section

variable {s t : State}

theorem dispWork_of_registers {d : DispRegs}
    (range : DispInRange s.params s.disp → DispInRange s.params d)
    (frameCnt_eq : d.frameCnt = s.disp.frameCnt) (frameLatch_eq : d.frameLatch = s.disp.frameLatch) :
    DispWork s { s with disp := d } :=
  .single (.registers d range frameCnt_eq frameLatch_eq)

theorem whenSet_work {f : State → State} (set : Bool) (hf : ∀ s, DispWork s (f s)) (s : State) :
    DispWork s (whenSet set f s) := by
  cases set
  · exact .refl
  · exact hf s

theorem setX_work (v : Dac) (s : State) : DispWork s (setX v s) :=
  dispWork_of_registers (fun h => { h with }) rfl rfl

theorem setY_work (v : Dac) (s : State) : DispWork s (setY v s) :=
  dispWork_of_registers (fun h => { h with }) rfl rfl

theorem haltDisplay_work (s : State) : DispWork s (haltDisplay s) :=
  dispWork_of_registers (fun h => { h with }) rfl rfl

theorem emitMove_work (style : Style) (s : State) : DispWork s (emitMove style s) :=
  .single (.event _ (by simp))

theorem stepX_work (negative : Bool) (s : State) : DispWork s (stepX negative s) :=
  (setX_work _ s).trans (emitMove_work _ _)

theorem stepY_work (negative : Bool) (s : State) : DispWork s (stepY negative s) :=
  (setY_work _ s).trans (emitMove_work _ _)

/-- Going on, or returning through the stack (R252, R253). -/
theorem displayDone_work (ret : Bool) (dnext : Word) (s : State) :
    DispWork s (displayDone ret dnext s) := by
  have hgo : ∀ (a : Word) (s : State), DispWork s (s.onDisp fun d => { d with dpc := s.mask a }) :=
    fun a s => dispWork_of_registers (fun h => { h with dpc := mask_inRange s a }) rfl rfl
  rw [← displayReturn_done]
  cases ret with
  | false => exact hgo dnext s
  | true =>
    rw [if_pos rfl]
    cases hstack : s.disp.dstack with
    | nil =>
      rw [displayReturn_of_nil hstack]
      exact (ReflTransGen.single (.log _)).trans (hgo dnext _)
    | cons top rest =>
      rw [displayReturn_of_cons hstack]
      have hpop : DispWork s (s.onDisp fun d => { d with dstack := rest }) :=
        dispWork_of_registers (fun h => { h with
          dstack := fun a ha => h.dstack a (hstack ▸ List.mem_cons_of_mem _ ha) }) rfl rfl
      exact hpop.trans (hgo top _)

/-- The other half, or the capture of the next word with its tag (R306). -/
theorem halfDone_work (s : State) : DispWork s (halfDone s) := by
  unfold halfDone
  split
  next => exact dispWork_of_registers (fun h => { h with }) rfl rfl
  next =>
    have hcapture : DispWork s { s with disp := { s.disp with
        dpc := s.mask (s.disp.dpc + 1)
        immWord := memRead s (s.mask (s.disp.dpc + 1)), half := .first } } :=
      dispWork_of_registers (fun h => { h with dpc := mask_inRange s _ }) rfl rfl
    exact hcapture.tail (.tag _ _ (mask_inRange s _))

theorem displayFunction_work (f c : BitVec 2) (s : State) : DispWork s (displayFunction f c s) := by
  unfold displayFunction
  split
  next => exact dispWork_of_registers (fun h => { h with scale := scaleOf_range c }) rfl rfl
  next =>
    split
    next =>
      exact dispWork_of_registers (fun h => { h with block := blockMask_toNat_lt _ _ }) rfl rfl
    next => exact .refl

theorem doprMoves_work (nh sync ixm iym dxm dym : Bool) (s : State) :
    DispWork s (doprMoves nh sync ixm iym dxm dym s) :=
  calc DispWork s _ := whenSet_work (!nh) haltDisplay_work s
    DispWork _ _ := whenSet_work sync (emitMove_work .off) _
    DispWork _ _ := whenSet_work ixm (stepX_work false) _
    DispWork _ _ := whenSet_work iym (stepY_work false) _
    DispWork _ _ := whenSet_work dxm (stepX_work true) _
    DispWork _ _ := whenSet_work dym (stepY_work true) _

theorem doprEnd_work (dsp : Bool) (f c : BitVec 2) (s : State) : DispWork s (doprEnd dsp f c s) :=
  (whenSet_work dsp (fun _ => .single (.event _ (by simp))) s).trans (displayFunction_work f c _)

theorem controlDacs_work (ixm zxl iym zyl : Bool) (s : State) :
    DispWork s (controlDacs ixm zxl iym zyl s) := by
  rw [controlDacs_eq]
  exact ((setX_work _ s).trans (setY_work _ _)).trans (whenSet_work _ (emitMove_work .off) _)

theorem vectorHalf_work (beam xneg : Bool) (xmag : BitVec 2) (yneg : Bool) (ymag : BitVec 2)
    (s : State) : DispWork s (vectorHalf beam xneg xmag yneg ymag s) := by
  rw [vectorHalf_eq]
  exact ((setX_work _ s).trans (setY_work _ _)).trans (emitMove_work _ _)

/-- A Processor-mode instruction: its effect, then DPC (R252). -/
theorem runDisplay_work {p : Perform} (hp : DispWork s (p s).1) (h : runDisplay p s = .next t) :
    DispWork s t := by
  cases h
  exact hp.tail (.registers _ (fun h => { h with dpc := mask_inRange _ _ }) rfl rfl)

theorem runDisplay_dopr_work {nh sync ixm iym dxm dym rjm dsp : Bool} {f c : BitVec 2}
    (h : runDisplay (performDopr nh sync ixm iym dxm dym rjm dsp f c) s = .next t) :
    DispWork s t := by
  rw [runDisplay_performDopr] at h
  cases h
  exact ((doprMoves_work ..).trans (doprEnd_work ..)).trans (displayDone_work ..)

theorem runDisplay_load_work {p : Perform} {u : State} (hp : p s = finishLoad u)
    (hu : DispWork s u) (h : runDisplay p s = .next t) : DispWork s t := by
  rw [runDisplay_of_load hp] at h
  cases h
  exact (hu.trans (emitMove_work _ _)).trans (displayDone_work ..)

/-- Every instruction that a display decoder gives is a chain of display changes. -/
theorem exec_dispWork {i : Instr} (hi : i.decoder ≠ .main) (h : exec i s = .next t) :
    DispWork s t := by
  cases i with
  | dopr | dhlt | dnop | dhvc | dixm | diym | ddxm | ddym | drjm | ddsp | dsts | dstb | dlpn =>
    exact runDisplay_dopr_work h
  | dlxa v => exact runDisplay_load_work (p := performDlxa v) rfl (setX_work _ s) h
  | dlya v => exact runDisplay_load_work (p := performDlya v) rfl (setY_work _ s) h
  | deim b =>
    exact runDisplay_work (p := performDeim b)
      (dispWork_of_registers (fun h => { h with }) rfl rfl) h
  | dlvh hint =>
    exact runDisplay_work (p := performDlvh)
      (((setX_work _ s).trans (setY_work _ _)).trans (emitMove_work _ _)) h
  | djms a =>
    refine runDisplay_work (p := performDjms a)
      (dispWork_of_registers (fun h => { h with dstack := ?_ }) rfl rfl) h
    exact List.forall_mem_cons.mpr ⟨mask_inRange s _, h.dstack⟩
  | djmp a => exact runDisplay_work (p := performDjmp a) .refl h
  | sgr1 beam ret enter =>
    exact runDisplay_work (p := performSgr1 beam ret enter)
      (dispWork_of_registers (fun h => { h with }) rfl rfl) h
  | unassignedDisplay => cases h
  | incVec =>
    rw [exec_incVec, nextHalf_eq] at h
    cases h
    exact (vectorHalf_work ..).trans (halfDone_work _)
  | incCtl esc rjm ixm zxl iym zyl =>
    rw [exec_incCtl, nextHalf_eq, escape_eq] at h
    cases h
    refine (controlDacs_work ixm zxl iym zyl s).trans ?_
    cases esc with
    | false => exact halfDone_work _
    | true =>
      rw [if_pos rfl]
      refine .trans ?_ (displayDone_work ..)
      exact dispWork_of_registers (fun h => { h with }) rfl rfl
  | _ => exact absurd rfl hi

end

end Sys2Proof.Changes
end

section
/-! The Main Processor's instructions as chains of changes (spec 40_main_fsm.md R120 to R131, 43_main_iot.md
R230 to R241). -/

namespace Sys2Proof.Changes

open Sys2Proof.Machine Sys2Proof.OrderEffects Sys2Proof.OperateEffects Relation

/-- One change that an instruction `i` of the Main Processor makes. Of the display registers it writes
DPC, BLOCK, DENTRY, DSTATE and, just for IOT 0x039, the latch (R237 to R240). -/
inductive MainChange (i : Instr) (s : State) : State → Prop where
  | registers (m : MainRegs) (range : MainInRange s.params s.main → MainInRange s.params m) :
      MainChange i s { s with main := m }
  | store (a v : Word) : MainChange i s (memWrite s a v)
  | display (d : DispRegs) (range : DispInRange s.params s.disp → DispInRange s.params d)
      (frame : d = { s.disp with
        dpc := d.dpc, block := d.block, dentry := d.dentry, dstate := d.dstate
        frameLatch := d.frameLatch })
      (latch : d.frameLatch = s.disp.frameLatch ∨ i.expand = .iot 0x039) :
      MainChange i s { s with disp := d }
  | device (ac : Word) (ready : Readiness) (devices : Nat) :
      MainChange i s { s with
        main := { s.main with ac := ac }
        inputs := { s.inputs with ready := ready }
        devices := devices }
  | log (e : LogEvent) : MainChange i s (logEvent e s)

/-- What a Main instruction does: a chain of its changes. -/
abbrev MainWork (i : Instr) : State → State → Prop := ReflTransGen (MainChange i)

section

variable {i : Instr} {s t : State}

theorem onMain_work {f : MainRegs → MainRegs} (s : State)
    (range : MainInRange s.params s.main → MainInRange s.params (f s.main)) :
    MainWork i s (s.onMain f) :=
  .single (.registers _ range)

theorem memWrite_work (a v : Word) (s : State) : MainWork i s (memWrite s a v) :=
  .single (.store a v)

theorem latch_work (j : Instr) (dest : Fsm) (s : State) : MainWork i s (latch j dest s) :=
  onMain_work s fun h => { h with }

theorem setAc_work (v : Word) (s : State) : MainWork i s (setAc v s) :=
  onMain_work s fun h => { h with }

theorem setAccumulator_work (a : Accumulator) (s : State) : MainWork i s (setAccumulator a s) :=
  onMain_work s fun h => { h with }

/-- A breakpoint at EA is recorded at an address in range (R128). -/
theorem testedAtEa_work (k : BreakKind) (s : State) : MainWork i s (testedAtEa k s) := by
  refine onMain_work s fun h => ?_
  unfold afterTest
  split
  next => exact { h with bp := h.ea }
  next => exact h

theorem writeOp_work (v : Word) (s : State) : MainWork i s (writeOp v s) := by
  rw [writeOp_eq_testedAtEa]
  exact (testedAtEa_work .write s).trans (memWrite_work _ v _)

theorem readOp_work (s : State) : MainWork i s (readOp s).2 := by
  rw [readOp_eq_testedAtEa]
  exact testedAtEa_work .read s

/-- PC, and the Execution breakpoint at it, are reduced addresses (R127). -/
theorem complete_work (next : Word) (s : State) : MainWork i s (complete next s) := by
  have hbp (h : inRange s.params s.main.bpAddr) :
      inRange s.params (stopAfter s (s.main.mstate, s.main.bpAddr) [] next).2 := by
    rw [stopAfter_nil]
    split
    next => exact mask_inRange s next
    next => exact h
  rw [complete_eq]
  exact onMain_work s fun h => { h with pc := mask_inRange s next, bp := hbp h.bp }

/-- Defer stores at most the pointer cell, and EA is a reduced address (R122). -/
theorem deferTransition_work (d : BitVec 11) (s : State) : MainWork i s (deferTransition d s) := by
  rw [deferTransition_eq]
  split
  next =>
    exact (memWrite_work _ _ s).tail (.registers _ fun h => { h with ea := mask_inRange s _ })
  next => exact onMain_work s fun h => { h with ea := mask_inRange s _ }

theorem executeTransition_work {p : Perform} (hp : ∀ s, MainWork i s (p s).1) (ind : Bool)
    (d : BitVec 11) (s : State) : MainWork i s (executeTransition ind d p s) := by
  have hea : MainWork i s (if ind then s else s.onMain fun m => { m with ea := pageAddress s d }) := by
    cases ind with
    | true => exact .refl
    | false =>
      exact onMain_work (f := fun m => { m with ea := pageAddress s d }) s
        fun h => { h with ea := mask_inRange s _ }
  exact ((hea.trans (hp _)).trans (complete_work _ _)).tail (.registers _ fun h => { h with })

/-- Every transition of an order whose effect is a chain of changes is one. -/
theorem runOrder_work {j : Instr} {ind : Bool} {d : BitVec 11} {p : Perform}
    (hp : ∀ s, MainWork i s (p s).1) (h : runOrder j ind d p s = .next t) : MainWork i s t := by
  cases hfsm : s.main.fsm with
  | fetch =>
    rw [runOrder_fetch _ _ _ _ _ hfsm] at h
    cases h
    exact latch_work ..
  | defer =>
    rw [runOrder_defer _ _ _ _ _ hfsm] at h
    cases h
    exact deferTransition_work ..
  | execute =>
    simp only [runOrder, hfsm] at h
    cases h
    exact executeTransition_work hp ind d s

theorem runOperate_work {j : Instr} {p : Perform} (hp : ∀ s, MainWork i s (p s).1)
    (h : runOperate j p s = .next t) : MainWork i s t := by
  rw [runOperate_eq] at h
  cases h
  exact ((latch_work ..).trans (hp _)).trans (complete_work ..)

/-! ### The effects -/

theorem performXam_work (s : State) : MainWork i s (performXam s).1 :=
  ((readOp_work s).trans (writeOp_work _ _)).trans (setAc_work _ _)

theorem performIsz_work (s : State) : MainWork i s (performIsz s).1 :=
  (readOp_work s).trans (writeOp_work _ _)

theorem performLogic_work (f : Word → Word → Word) (s : State) :
    MainWork i s (performLogic f s).1 :=
  (readOp_work s).trans (setAc_work _ _)

theorem performArith_work (f : Accumulator → Word → Accumulator) (s : State) :
    MainWork i s (performArith f s).1 :=
  (readOp_work s).trans (setAccumulator_work _ _)

theorem performOpr_work {nh oda cml cll iac cma cla : Bool} (s : State) :
    MainWork i s (performOpr nh oda cml cll iac cma cla s).1 := by
  rw [performOpr_eq]
  exact onMain_work s fun h => { h with }

/-- Display-on writes DSTATE alone (R195). -/
theorem resumeHaltedDisplay_work (s : State) : MainWork i s (resumeHaltedDisplay s) := by
  unfold resumeHaltedDisplay
  split
  next => exact .single (.display _ (fun h => { h with }) rfl (.inl rfl))
  next => exact .refl

theorem performShift_work {step1 : Accumulator → Accumulator} {on : Bool} {cnt : BitVec 2}
    (s : State) : MainWork i s (performShift step1 on cnt s).1 := by
  have hac : MainWork i s (setAccumulator (iterate step1 cnt.toNat s.accumulator) s) :=
    setAccumulator_work _ s
  cases on with
  | true => exact hac.trans (resumeHaltedDisplay_work _)
  | false => exact hac

theorem performSkp_work {neg : Bool} {cond : BitVec 9} (s : State) :
    MainWork i s (performSkp neg cond s).1 := .refl

/-- Of the Display Processor's codes only 0x039 touches the latch (R237 to R241). -/
theorem displayIot_work {code : IotCode} (hi : i.expand = .iot code)
    (h : displayIot code s = .ok t) : MainWork i s t := by
  have hwork : ∀ {d : DispRegs}, (DispInRange s.params s.disp → DispInRange s.params d) →
      d = { s.disp with
        dpc := d.dpc, block := d.block, dentry := d.dentry, dstate := d.dstate
        frameLatch := d.frameLatch } →
      d.frameLatch = s.disp.frameLatch ∨ i.expand = .iot 0x039 → MainWork i s { s with disp := d } :=
    fun range frame latch => .single (.display _ range frame latch)
  unfold displayIot at h
  split at h
  next =>
    cases h
    refine hwork (fun h => { h with dpc := ?_, dentry := ?_, block := ?_ }) rfl (.inl rfl)
    · exact mask_inRange s _
    · exact mask_inRange s _
    · exact ushiftRight_toNat_lt (mask_inRange s _)
  next =>
    split at h
    next => cases h; exact hwork (fun h => { h with }) rfl (.inl rfl)
    next =>
      split at h
      next hscf => cases h; exact hwork (fun h => { h with }) rfl (.inr (hscf ▸ hi))
      next =>
        split at h
        next => cases h; exact resumeHaltedDisplay_work s
        next => cases h

/-- A device changes AC, the readiness inputs and its own state (R236). -/
theorem externalIot_work (id : Nat) (code : IotCode) (s : State) :
    MainWork i s (externalIot id code s) :=
  .single (.device _ _ _)

theorem dispatchIot_work {code : IotCode} (hi : i.expand = .iot code)
    (h : dispatchIot code s = .ok t) : MainWork i s t := by
  unfold dispatchIot at h
  split at h
  next => cases h; exact .refl
  next =>
    split at h
    next => exact displayIot_work hi h
    next => cases h; exact externalIot_work _ _ s
    next => cases h; exact .single (.log _)

theorem runIot_work {j : Instr} {code : IotCode} (hi : i.expand = .iot code)
    (h : runIot j code s = .next t) : MainWork i s t := by
  unfold runIot at h
  simp only at h
  split at h
  next hdispatch =>
    cases h
    exact ((latch_work ..).trans (dispatchIot_work hi hdispatch)).trans (complete_work ..)
  next => cases h

/-- Every instruction that the Main decoder gives is a chain of Main changes. -/
theorem exec_mainWork (hi : i.decoder = .main) (h : exec i s = .next t) : MainWork i s t := by
  cases i with
  | opr | hlt | nop | cla | cma | sta | iac | coa | cia | cll | cal | cml | stl | oda | lda =>
    exact runOperate_work performOpr_work h
  | ral | rar | sal | sar | don => exact runOperate_work performShift_work h
  | skp | asz | asn | asp | asm | lsz | lsn | dsf | dsn | ksf | ksn | rsf | rsn | tsf | tsn | ssf
  | ssn | hsf | hsn => exact runOperate_work performSkp_work h
  | iot | dla | dof | scf | drs => exact runIot_work rfl h
  | law imm => exact runOrder_work (p := performLaw imm) (setAc_work _) h
  | lwc imm => exact runOrder_work (p := performLwc imm) (setAc_work _) h
  | jmp => exact runOrder_work (p := performJmp) (fun _ => .refl) h
  | dac => exact runOrder_work (p := performDac) (fun s => writeOp_work _ s) h
  | xam => exact runOrder_work performXam_work h
  | isz => exact runOrder_work performIsz_work h
  | jms => exact runOrder_work (p := performJms) (fun s => writeOp_work _ s) h
  | and | ior | xor | lac => exact runOrder_work (performLogic_work _) h
  | add | sub => exact runOrder_work (performArith_work _) h
  | sam => exact runOrder_work (p := performSam) readOp_work h
  | unassignedIot | unassignedShift | unassignedOrder3 | unassignedOrder8 => cases h
  | _ => cases hi

end

end Sys2Proof.Changes
end

section
/-! A whole step as a chain of changes, and the invariants that hold after it because every single change
keeps them (spec 10_state.md R40, R41; 20_memory.md R52, R65). -/

namespace Sys2Proof.Changes

open Sys2Proof.Machine Relation

/-! ### The changes a step makes -/

/-- One change that any part of a step makes, of either processor or of the host. -/
inductive Change (s : State) : State → Prop where
  | registers (m : MainRegs) (d : DispRegs)
      (mainRange : MainInRange s.params s.main → MainInRange s.params m)
      (dispRange : DispInRange s.params s.disp → DispInRange s.params d) :
      Change s { s with main := m, disp := d }
  | store (a v : Word) : Change s (memWrite s a v)
  | fillMain (a : Word) :
      Change s { s with
        mcache := insertAt (s.mask a).toNat (decodeMainWord (memRead s a)) s.mcache }
  | fillDisplay (a : Word) :
      Change s { s with
        dcache := insertAt (s.mask a).toNat
          (decodeDisplayWord s.params.dblockBits (memRead s a)) s.dcache }
  | tag (a : Word) (m : DisplayMode) (ha : inRange s.params a) :
      Change s { s with usage := insertAt a.toNat m s.usage }
  | dropCaches : Change s { s with mcache := [], dcache := [], usage := [] }
  | event (e : SinkEvent) : Change s (emit e s)
  | log (e : LogEvent) : Change s (logEvent e s)
  | outside (inputs : Inputs) (devices : Nat) :
      Change s { s with inputs := inputs, devices := devices }
  | schedule (agenda : List HostRequest) (tick : Nat) :
      Change s { s with agenda := agenda, tick := tick }

/-- What a step does: a chain of changes. -/
abbrev Work : State → State → Prop := ReflTransGen Change

section

variable {i : Instr} {s t : State}

theorem work_of_main {m : MainRegs} (range : MainInRange s.params s.main → MainInRange s.params m) :
    Work s { s with main := m } :=
  .single (.registers m s.disp range id)

theorem work_of_disp {d : DispRegs} (range : DispInRange s.params s.disp → DispInRange s.params d) :
    Work s { s with disp := d } :=
  .single (.registers s.main d id range)

theorem work_of_dispChange (h : DispChange s t) : Work s t := by
  cases h with
  | registers d range => exact work_of_disp range
  | event e => exact .single (.event e)
  | log e => exact .single (.log e)
  | tag a m ha => exact .single (.tag a m ha)

theorem work_of_mainChange (h : MainChange i s t) : Work s t := by
  cases h with
  | registers m range => exact work_of_main range
  | store a v => exact .single (.store a v)
  | display d range => exact work_of_disp range
  | device ac ready devices =>
    exact (work_of_main (m := { s.main with ac := ac }) fun h => { h with }).tail (.outside _ _)
  | log e => exact .single (.log e)

/-- Every instruction is a chain of changes. -/
theorem exec_work (h : exec i s = .next t) : Work s t := by
  by_cases hi : i.decoder = .main
  · exact (exec_mainWork hi h).lift' id fun _ _ => work_of_mainChange
  · exact (exec_dispWork hi h).lift' id fun _ _ => work_of_dispChange

/-! ### The parts of a step around the instruction -/

theorem fetchMainWord_work (s : State) (a : Word) : Work s (fetchMainWord s a).2 := by
  unfold fetchMainWord
  simp only
  split
  next => exact .refl
  next =>
    split
    next => exact .refl
    next => exact .single (.fillMain a)

theorem fetchDisplayWord_work (s : State) (a : Word) : Work s (fetchDisplayWord s a).2 := by
  unfold fetchDisplayWord
  simp only
  split
  next => exact .single (.tag _ _ (mask_inRange s a))
  next =>
    split
    next => exact .refl
    next =>
      have hfill := (ReflTransGen.single (Change.fillDisplay (s := s) a)).tail
        (.tag (s.mask a) .processor (mask_inRange s a))
      exact hfill

theorem nextMainInstr_work (s : State) : Work s (nextMainInstr s).2 := by
  unfold nextMainInstr
  split
  next => exact fetchMainWord_work s _
  next => exact .refl
  next => exact .refl

theorem nextDisplayInstr_work (s : State) : Work s (nextDisplayInstr s).2 := by
  unfold nextDisplayInstr
  split
  next => exact fetchDisplayWord_work s _
  next => exact .refl

theorem pollSwitches_work (s : State) : Work s (pollSwitches s) := by
  unfold pollSwitches
  split
  next => exact work_of_main fun h => { h with }
  next => exact .refl

/-- The counter never passes FRAME_CYCLES (R251). -/
theorem frameTick_work (s : State) : Work s (frameTick s) := by
  rw [frameTick_eq]
  split
  next =>
    exact (work_of_disp (d := { s.disp with frameCnt := 0, frameLatch := true })
      fun h => { h with frameCnt := Nat.zero_le _ }).tail (.event _)
  next hle => exact work_of_disp fun h => { h with frameCnt := Nat.not_lt.mp hle }

theorem displayBreakpointTest_work (s : State) : Work s (displayBreakpointTest s) := by
  rw [displayBreakpointTest_eq]
  split
  next => exact work_of_disp fun h => { h with bp := h.dpc }
  next => exact .refl

theorem mainStep_work (h : mainStep s = .next t) : Work s t := by
  unfold mainStep at h
  split at h
  next => exact ((pollSwitches_work s).trans (nextMainInstr_work _)).trans (exec_work h)
  next => cases h; exact .refl

theorem dispStep_work (h : dispStep s = .next t) : Work s t := by
  have hfetch := (frameTick_work s).trans (nextDisplayInstr_work _)
  unfold dispStep at h
  simp only at h
  split at h
  next =>
    split at h
    next u hexec =>
      cases h
      exact (hfetch.trans (exec_work hexec)).trans (displayBreakpointTest_work u)
    next => cases h
    next => cases h
  next => cases h; exact frameTick_work s

/-- The registers after reset are in range whatever they were, but for EA, which reset keeps (R360). -/
theorem applyReset_work (s : State) : Work s (applyReset s) := by
  refine .head (.registers (applyReset s).main (applyReset s).disp (fun h => ?main) fun h => ?disp)
    ((ReflTransGen.single .dropCaches).tail (.event _))
  case main => exact ⟨mask_inRange s _, h.ea, zero_inRange _⟩
  case disp =>
    refine ⟨zero_inRange _, zero_inRange _, zero_inRange _, by simp, ?_, by simp, by simp⟩
    exact Nat.two_pow_pos _

/-! ### Host requests -/

/-- A deposit writes one register of the Main Processor, and none of its control state (R132). -/
theorem depositMain_eq_next {reg : MainReg} {v : Word} (h : depositMain reg v s = .next t) :
    ∃ m, t = { s with main := m } ∧ (MainInRange s.params s.main → MainInRange s.params m)
      ∧ m.mstate = s.main.mstate ∧ m.fsm = s.main.fsm ∧ m.ir = s.main.ir := by
  unfold depositMain at h
  cases reg with
  | ds => cases h; exact ⟨_, rfl, fun h => { h with }, rfl, rfl, rfl⟩
  | pc =>
    simp only at h
    split at h
    next => cases h
    next => cases h; exact ⟨_, rfl, fun h => { h with pc := mask_inRange s v }, rfl, rfl, rfl⟩
  | ac | link =>
    simp only at h
    split at h
    next => cases h
    next => cases h; exact ⟨_, rfl, fun h => { h with }, rfl, rfl, rfl⟩

theorem depositDisplay_eq_next {reg : DispReg} {v : Word} (h : depositDisplay reg v s = .next t) :
    s.disp.dstate ≠ .running ∧ t = depositedDisplay reg v s := by
  unfold depositDisplay at h
  split at h
  next => cases h
  next hstop => cases h; exact ⟨hstop, rfl⟩

theorem depositFrameCount_eq_next {n : Nat} (h : depositFrameCount n s = .next t) :
    n ≤ s.params.frameCycles ∧ t = s.onDisp fun d => { d with frameCnt := n } := by
  unfold depositFrameCount at h
  split at h
  next => cases h
  next =>
    split at h
    next hle => cases h; exact ⟨hle, rfl⟩
    next => cases h

theorem depositStack_eq_next {addrs : List Word} (h : depositStack addrs s = .next t) :
    t = s.onDisp fun d => { d with dstack := addrs.map s.mask } := by
  unfold depositStack at h
  split at h
  next => cases h
  next => cases h; rfl

theorem resumeDisplay_eq_next (h : resumeDisplay s = .next t) :
    ∃ dstate, t = s.onDisp fun d => { d with dstate := dstate } := by
  unfold resumeDisplay at h
  split at h
  next => cases h
  next => cases h; exact ⟨s.disp.dstate, rfl⟩
  next => cases h; exact ⟨_, rfl⟩

theorem depositedDisplay_work (reg : DispReg) (v : Word) (s : State) :
    Work s (depositedDisplay reg v s) := by
  cases reg with
  | dpc => exact work_of_disp fun h => { h with dpc := mask_inRange s v }
  | block => exact work_of_disp fun h => { h with block := blockMask_toNat_lt _ v }
  | scale => exact work_of_disp fun h => { h with scale := scaleOf_range _ }
  | x | y | sgr | frameLatch => exact work_of_disp fun h => { h with }

theorem depositStack_work (addrs : List Word) (s : State) :
    Work s (s.onDisp fun d => { d with dstack := addrs.map s.mask }) :=
  work_of_disp fun h => { h with
    dstack := List.forall_mem_map.mpr fun a _ => mask_inRange s a }

theorem serve_work {r : HostRequest} (h : serve r s = .next t) : Work s t := by
  cases r with
  | mainStep => exact mainStep_work h
  | dispStep => exact dispStep_work h
  | reset => cases h; exact applyReset_work s
  | resumeMain => cases h; exact work_of_main fun h => { h with }
  | resumeDisplay =>
    obtain ⟨_, rfl⟩ := resumeDisplay_eq_next h
    exact work_of_disp fun h => { h with }
  | store a v => cases h; exact .single (.store a v)
  | depositMain =>
    obtain ⟨m, rfl, range, -⟩ := depositMain_eq_next h
    exact work_of_main range
  | depositDisplay reg v =>
    obtain ⟨-, rfl⟩ := depositDisplay_eq_next h
    exact depositedDisplay_work reg v s
  | depositFrameCount =>
    obtain ⟨hle, rfl⟩ := depositFrameCount_eq_next h
    exact work_of_disp fun h => { h with frameCnt := hle }
  | depositStack addrs =>
    rw [depositStack_eq_next h]
    exact depositStack_work addrs s
  | setBreakpoints | setReadiness | setSwitches | setDevices =>
    cases h
    exact .single (.outside _ _)

theorem nextRequest_work (s : State) : Work s (nextRequest s).2 := by
  unfold nextRequest
  split
  next => exact .single (.schedule _ _)
  next => exact .single (.schedule _ _)

/-- Every step that goes on is a chain of changes. -/
theorem step_work (h : step s = .next t) : Work s t :=
  (nextRequest_work s).trans (serve_work h)

/-- What every single change keeps, every step keeps. -/
theorem step_keeps {P : State → Prop} (hP : ∀ s t, Change s t → P s → P t) (hs : P s)
    (h : step s = .next t) : P t := by
  have hwork := step_work h
  clear h
  induction hwork with
  | refl => exact hs
  | tail _ hchange ih => exact hP _ _ hchange ih

end

/-! ### What each change keeps -/

section

variable {s t : State}

/-- A change writes a register only with a value that the register may hold (R41 (a), (c)). -/
theorem change_registersInRange (h : Change s t) (hs : registersInRange s) :
    registersInRange t := by
  rw [registersInRange_iff] at hs ⊢
  obtain ⟨hmain, hdisp⟩ := hs
  cases h with
  | registers m d mainRange dispRange => exact ⟨mainRange hmain, dispRange hdisp⟩
  | _ => exact ⟨hmain, hdisp⟩

/-- A store empties the slots of the one word it changes (R65). -/
theorem cachesCoherent_memWrite (hs : cachesCoherent s) (a v : Word) :
    cachesCoherent (memWrite s a v) := by
  refine ⟨fun b i hb => ?main, fun b i hb => ?display⟩
  case main =>
    rw [memWrite_mcache, lookup_eraseAt] at hb
    split at hb
    next => cases hb
    next hne =>
      rw [memWrite_mem, readWord_writeWord, if_neg hne]
      exact hs.main b i hb
  case display =>
    rw [memWrite_dcache, lookup_eraseAt] at hb
    split at hb
    next => cases hb
    next hne =>
      rw [memWrite_mem, readWord_writeWord, if_neg hne]
      exact hs.display b i hb

/-- A slot is filled with the decoding of its word, and emptied by a store to it (R41 (d)). -/
theorem change_cachesCoherent (h : Change s t) (hs : cachesCoherent s) : cachesCoherent t := by
  cases h with
  | store a v => exact cachesCoherent_memWrite hs a v
  | fillMain a =>
    refine ⟨fun b i hb => ?_, hs.display⟩
    rw [lookup_insertAt] at hb
    split at hb
    next heq => cases hb; rw [heq]; rfl
    next => exact hs.main b i hb
  | fillDisplay a =>
    refine ⟨hs.main, fun b i hb => ?_⟩
    rw [lookup_insertAt] at hb
    split at hb
    next heq => cases hb; rw [heq]; rfl
    next => exact hs.display b i hb
  | dropCaches => exact ⟨fun _ _ => nofun, fun _ _ => nofun⟩
  | _ => exact ⟨hs.main, hs.display⟩

theorem keys_insertAt {α : Type} {n k : Nat} {v : α} {m : List (Nat × α)} (hk : k < n)
    (hm : ∀ e ∈ m, e.1 < n) : ∀ e ∈ insertAt k v m, e.1 < n := by
  intro e he
  rcases mem_insertAt he with rfl | he
  · exact hk
  · exact hm e he

theorem keys_eraseAt {α : Type} {n k : Nat} {m : List (Nat × α)} (hm : ∀ e ∈ m, e.1 < n) :
    ∀ e ∈ eraseAt k m, e.1 < n :=
  fun e he => hm e (mem_eraseAt he)

/-- A store lists the two bytes of one word of the address space (R52). -/
theorem tablesCanonical_memWrite (hs : tablesCanonical s) (a v : Word) :
    tablesCanonical (memWrite s a v) where
  mem := memoryWf_writeWord _ _ _ hs.mem
  memWhole := wholeWords_writeWord _ _ _ hs.memWhole
  memRange e he := by
    have ha : (s.mask a).toNat < 2 ^ s.params.addrBits := mask_inRange s a
    rcases mem_writeWord he with h | h | h
    · rw [h, memWrite_params]; omega
    · rw [h, memWrite_params]; omega
    · exact hs.memRange e h
  mcache := rising_eraseAt _ _ hs.mcache
  mcacheRange := keys_eraseAt hs.mcacheRange
  dcache := rising_eraseAt _ _ hs.dcache
  dcacheRange := keys_eraseAt hs.dcacheRange
  usage := rising_eraseAt _ _ hs.usage
  usageRange := keys_eraseAt hs.usageRange

/-- Every table is written at a reduced address, by an operation that keeps its form. -/
theorem change_tablesCanonical (h : Change s t) (hs : tablesCanonical s) : tablesCanonical t := by
  cases h with
  | store a v => exact tablesCanonical_memWrite hs a v
  | fillMain a =>
    exact { hs with
      mcache := rising_insertAt _ _ _ hs.mcache
      mcacheRange := keys_insertAt (mask_inRange s a) hs.mcacheRange }
  | fillDisplay a =>
    exact { hs with
      dcache := rising_insertAt _ _ _ hs.dcache
      dcacheRange := keys_insertAt (mask_inRange s a) hs.dcacheRange }
  | tag a m ha =>
    exact { hs with
      usage := rising_insertAt _ _ _ hs.usage
      usageRange := keys_insertAt ha hs.usageRange }
  | dropCaches =>
    exact { hs with
      mcache := rfl, mcacheRange := fun _ => nofun
      dcache := rfl, dcacheRange := fun _ => nofun
      usage := rfl, usageRange := fun _ => nofun }
  | _ => exact { hs with }

/-- The configuration of `s` and, at their front, its traces. -/
def Extends (s t : State) : Prop :=
  t.params = s.params ∧ s.sink <+: t.sink ∧ s.log <+: t.log

/-- A change appends to the two traces at most (R38, R326). -/
theorem change_extends {s₀ : State} (h : Change s t) (hs : Extends s₀ s) : Extends s₀ t := by
  obtain ⟨hparams, hsink, hlog⟩ := hs
  cases h with
  | event e => exact ⟨hparams, hsink.trans (List.prefix_append _ _), hlog⟩
  | log e => exact ⟨hparams, hsink, hlog.trans (List.prefix_append _ _)⟩
  | _ => exact ⟨hparams, hsink, hlog⟩

end

/-! ### The obligations -/

/-- Settles O55: each single change keeps the ranges. -/
theorem stepKeepsRegistersInRange : Obligations.StepKeepsRegistersInRange :=
  fun _ _ hs h => step_keeps (fun _ _ => change_registersInRange) hs h

/-- Settles O56: each single change keeps the caches coherent. -/
theorem stepKeepsCachesCoherent : Obligations.StepKeepsCachesCoherent :=
  fun _ _ hs h => step_keeps (fun _ _ => change_cachesCoherent) hs h

/-- Settles O57: each single change keeps the tables in their form. -/
theorem stepKeepsTablesCanonical : Obligations.StepKeepsTablesCanonical :=
  fun _ _ hs h => step_keeps (fun _ _ => change_tablesCanonical) hs h

/-- Settles O51: each single change keeps what extends the state before the step. -/
theorem configurationFixedTracesGrow : Obligations.ConfigurationFixedTracesGrow := by
  intro s t h
  have hrefl : Extends s s := ⟨rfl, List.prefix_rfl, List.prefix_rfl⟩
  obtain ⟨hparams, ⟨events, hsink⟩, ⟨entries, hlog⟩⟩ :=
    step_keeps (fun _ _ => change_extends) hrefl h
  exact ⟨hparams, ⟨events, hsink.symm⟩, ⟨entries, hlog.symm⟩⟩

end Sys2Proof.Changes
end

section
/-! What the steps of each processor leave unchanged, and when they are fatal (spec 40_main_fsm.md R121 to
R129, 43_main_iot.md section 4, 44 R250, R251, 60_exceptions.md R320 to R336). -/

namespace Sys2Proof.StepFrames

open Sys2Proof.Machine Sys2Proof.Transitions Sys2Proof.IotEffects Sys2Proof.EveryWord
  Sys2Proof.Changes Relation

/-! ### What a chain of changes leaves -/

section

variable {i : Instr} {s t : State}

/-- A display instruction writes its registers, the tags and the two traces alone (R58, R333). -/
theorem dispWork_frame (h : DispWork s t) :
    t = { s with disp := t.disp, usage := t.usage, sink := t.sink, log := t.log } := by
  induction h with
  | refl => rfl
  | tail _ hchange ih =>
    cases hchange <;> rw [ih] <;> rfl

/-- No display instruction touches the counter or the latch, or emits the counter's event (R251). -/
theorem dispWork_counter (h : DispWork s t) :
    t.disp.frameCnt = s.disp.frameCnt ∧ t.disp.frameLatch = s.disp.frameLatch
      ∧ ∃ events, t.sink = s.sink ++ events ∧ .frameDone ∉ events := by
  induction h with
  | refl => exact ⟨rfl, rfl, [], (List.append_nil _).symm, List.not_mem_nil⟩
  | tail _ hchange ih =>
    obtain ⟨hcnt, hlatch, events, hsink, hevents⟩ := ih
    cases hchange with
    | registers d range hcnt' hlatch' =>
      exact ⟨hcnt'.trans hcnt, hlatch'.trans hlatch, events, hsink, hevents⟩
    | event e he =>
      refine ⟨hcnt, hlatch, events ++ [e], ?_, by simp [hevents, he.symm]⟩
      rw [emit, hsink, List.append_assoc]
    | log e => exact ⟨hcnt, hlatch, events, hsink, hevents⟩
    | tag => exact ⟨hcnt, hlatch, events, hsink, hevents⟩

/-- What a Main instruction leaves of the Display Processor, the sink and the configuration (43
section 4). -/
structure DrawingKept (s t : State) : Prop where
  disp : t.disp = { s.disp with
    dpc := t.disp.dpc, block := t.disp.block, dentry := t.disp.dentry, dstate := t.disp.dstate
    frameLatch := t.disp.frameLatch }
  sink : t.sink = s.sink
  params : t.params = s.params
  breakpoints : t.inputs.breakpoints = s.inputs.breakpoints
  switches : t.inputs.switches = s.inputs.switches
  mapping : t.inputs.mapping = s.inputs.mapping

theorem mainWork_drawingKept (h : MainWork i s t) : DrawingKept s t := by
  induction h with
  | refl => exact ⟨rfl, rfl, rfl, rfl, rfl, rfl⟩
  | tail _ hchange ih =>
    cases hchange with
    | display d range frame => exact { ih with disp := by rw [frame, ih.disp] }
    | registers | store | device | log => exact { ih with }

theorem mainWork_frameLatch (h : MainWork i s t) :
    t.disp.frameLatch = s.disp.frameLatch ∨ i.expand = .iot 0x039 := by
  induction h with
  | refl => exact .inl rfl
  | tail _ hchange ih =>
    cases hchange with
    | display d range frame latch => exact ih.elim (fun h => latch.imp_left (·.trans h)) .inr
    | registers | store | device | log => exact ih

/-- Only IOT 0x039 changes the latch (R27, R239). -/
theorem exec_frameLatch (h : exec i s = .next t) :
    t.disp.frameLatch = s.disp.frameLatch ∨ i.expand = .iot 0x039 := by
  by_cases hi : i.decoder = .main
  · exact mainWork_frameLatch (exec_mainWork hi h)
  · obtain ⟨-, hlatch, -⟩ := dispWork_counter (exec_dispWork hi h)
    exact .inl hlatch

end

/-! ### The display step -/

section

variable {s t : State}

/-- The tick writes the counter, the latch and the sink alone (R251). -/
theorem frameTick_frame (s : State) :
    ∃ cnt latch sink, frameTick s =
      { s with disp := { s.disp with frameCnt := cnt, frameLatch := latch }, sink := sink } := by
  rw [frameTick_eq]
  split
  next => exact ⟨_, _, _, rfl⟩
  next => exact ⟨_, _, _, rfl⟩

theorem frameTick_coherent (h : cachesCoherent s) : cachesCoherent (frameTick s) := by
  obtain ⟨cnt, latch, sink, htick⟩ := frameTick_frame s
  rw [htick]
  exact ⟨h.main, h.display⟩

/-- With coherent caches the instruction of a `DispStep` is one of the display's own decoders, and the
fetch fills its cache and tags alone (R64, R252, R300). -/
theorem nextDisplayInstr_spec (h : cachesCoherent s) :
    (nextDisplayInstr s).1.decoder ≠ .main
      ∧ ∃ dc us, (nextDisplayInstr s).2 = { s with dcache := dc, usage := us } := by
  unfold nextDisplayInstr
  split
  next =>
    obtain ⟨dc, us, hsnd, -⟩ := fetchDisplayWord_snd s s.disp.dpc
    rw [fetchDisplayWord_fst _ _ h, decodeDisplayWord_decoder]
    exact ⟨nofun, dc, us, hsnd⟩
  next =>
    obtain ⟨hdecoder, -⟩ := decodeHalf_cases (currentHalf s.disp)
    simp only [hdecoder]
    exact ⟨nofun, s.dcache, s.usage, rfl⟩

theorem displayBreakpointTest_dispWork (s : State) : DispWork s (displayBreakpointTest s) := by
  rw [displayBreakpointTest_eq]
  split
  next => exact dispWork_of_registers (fun h => { h with bp := h.dpc }) rfl rfl
  next => exact .refl

/-- The Display breakpoint test after an instruction that goes on (R276). -/
def thenTested (r : Result) : Result :=
  match r with
  | .next t => .next (displayBreakpointTest t)
  | .fault f => .fault f
  | .refused f => .refused f

theorem thenTested_eq_next {r : Result} (h : thenTested r = .next t) :
    ∃ u, r = .next u ∧ t = displayBreakpointTest u := by
  cases r with
  | next u => cases h; exact ⟨u, rfl, rfl⟩
  | fault => cases h
  | refused => cases h

theorem thenTested_eq_fault_iff {r : Result} {f : Fault} :
    thenTested r = .fault f ↔ r = .fault f := by
  cases r with
  | next => exact ⟨nofun, nofun⟩
  | fault => exact Iff.rfl
  | refused => exact ⟨nofun, nofun⟩

theorem dispStep_of_running (h : s.disp.dstate = .running) :
    dispStep s =
      thenTested (exec (nextDisplayInstr (frameTick s)).1 (nextDisplayInstr (frameTick s)).2) := by
  obtain ⟨cnt, latch, sink, htick⟩ := frameTick_frame s
  have hrun : (frameTick s).disp.dstate = .running := by rw [htick]; exact h
  rw [dispStep]
  exact if_pos hrun

theorem dispStep_of_stopped (h : s.disp.dstate ≠ .running) : dispStep s = .next (frameTick s) := by
  obtain ⟨cnt, latch, sink, htick⟩ := frameTick_frame s
  have hstop : (frameTick s).disp.dstate ≠ .running := by rw [htick]; exact h
  rw [dispStep]
  exact if_neg hstop

/-- A `DispStep` that goes on is the tick, the fill of the display's tables, and changes of the display
instruction. -/
theorem dispStep_chain (hcoh : cachesCoherent s) (h : dispStep s = .next t) :
    ∃ dc us, DispWork { frameTick s with dcache := dc, usage := us } t := by
  by_cases hrun : s.disp.dstate = .running
  · obtain ⟨hdecoder, dc, us, hfetch⟩ := nextDisplayInstr_spec (frameTick_coherent hcoh)
    rw [dispStep_of_running hrun, hfetch] at h
    obtain ⟨u, hexec, rfl⟩ := thenTested_eq_next h
    exact ⟨dc, us, (exec_dispWork hdecoder hexec).trans (displayBreakpointTest_dispWork u)⟩
  · rw [dispStep_of_stopped hrun] at h
    cases h
    exact ⟨_, _, .refl⟩

/-- Settles O48: neither the tick nor the fill nor a change of a display instruction touches more. -/
theorem displayStepsLeaveMainAndMemory : Obligations.DisplayStepsLeaveMainAndMemory := by
  intro s t hcoh h
  obtain ⟨dc, us, hwork⟩ := dispStep_chain hcoh h
  obtain ⟨cnt, latch, sink, htick⟩ := frameTick_frame s
  rw [dispWork_frame hwork, htick]

/-- Settles O42: what follows the tick does not touch the counter. -/
theorem frameCounterIsIndependent : Obligations.FrameCounterIsIndependent := by
  intro s t hcoh h
  obtain ⟨dc, us, hwork⟩ := dispStep_chain hcoh h
  obtain ⟨hcnt, hlatch, events, hsink, hevents⟩ := dispWork_counter hwork
  simp only [frameTick_eq] at hcnt hlatch hsink
  by_cases hcross : s.params.frameCycles < s.disp.frameCnt + 1
  · simp only [hcross, if_true] at hcnt hlatch hsink ⊢
    exact ⟨hcnt, hlatch, events, hsink, hevents⟩
  · simp only [hcross, if_false, List.append_nil] at hcnt hlatch hsink ⊢
    exact ⟨hcnt, hlatch, events, hsink, hevents⟩

/-- A `DispStep` never clears the latch (R27). -/
theorem dispStep_frameLatch (hcoh : cachesCoherent s) (h : dispStep s = .next t)
    (hset : s.disp.frameLatch = true) : t.disp.frameLatch = true := by
  obtain ⟨-, hlatch, -⟩ := frameCounterIsIndependent s t hcoh h
  rw [hlatch, hset, ite_self]

end

/-! ### What the Main Processor runs -/

section

variable {i : Instr} {s t : State}

theorem decoder_of_mainRecord {r : MainRecord} (h : mainRecord i = some r) : i.decoder = .main := by
  rw [← RoundTrip.expand_decoder]
  unfold mainRecord at h
  generalize i.expand = row at h
  cases row with
  | opr | ral | rar | sal | sar | skp | iot | law | lwc | jmp | dac | xam | isz | jms | and | ior
  | xor | lac | add | sub | sam => rfl
  | _ => cases h

/-- A Main instruction has a record or no decoding (R89, R90). -/
theorem mainRecord_of_assigned (hi : i.decoder = .main) (hassigned : isUnassigned i = false) :
    ∃ r, mainRecord i = some r := by
  cases i with
  | dopr | dlxa | dlya | deim | dlvh | djms | djmp | sgr1 | unassignedDisplay | dhlt | dnop | dhvc
  | dixm | diym | ddxm | ddym | drjm | ddsp | dsts | dstb | dlpn | incVec | incCtl => cases hi
  | unassignedIot | unassignedShift | unassignedOrder3 | unassignedOrder8 => cases hassigned
  | _ => exact ⟨_, rfl⟩

theorem displayIot_main {code : IotCode} (h : displayIot code s = .ok t) : t.main = s.main := by
  by_cases hmem : code ∈ displayCodes
  · obtain ⟨u, hu, hmain⟩ := displayIot_ok hmem s
    rw [hu] at h
    cases h
    exact hmain
  · rw [displayIot_of_not_mem hmem] at h
    cases h

/-- Whatever the registry routes, an IOT that is performed leaves FSM (R230). -/
theorem dispatchIot_fsm {code : IotCode} (h : dispatchIot code s = .ok t) :
    t.main.fsm = s.main.fsm := by
  unfold dispatchIot at h
  split at h
  next => cases h; rfl
  next =>
    split at h
    next => rw [displayIot_main h]
    next => cases h; rfl
    next => cases h; rfl

theorem runIot_fsm {j : Instr} {code : IotCode} (h : runIot j code s = .next t) :
    t.main.fsm = .fetch := by
  unfold runIot at h
  simp only at h
  split at h
  next hdispatch =>
    cases h
    exact (complete_fsm _ _).trans (dispatchIot_fsm hdispatch)
  next => cases h

/-- An order, or an operate instruction, always goes on; an IOT does under a well-formed registry (R241,
R322). -/
theorem exec_goesOn_of_mainRecord {r : MainRecord} (hrecord : mainRecord i = some r)
    (hwf : s.params.registry.wf = true) : goesOn (exec i s) := by
  cases runsAs_of_mainRecord hrecord with
  | order p _ hexec => rw [hexec]; exact runOrder_goesOn _ _ _ _ s
  | operate p _ _ _ hexec => rw [hexec]; exact ⟨_, runOperate_eq _ _ s⟩
  | iot code _ _ hexec =>
    obtain ⟨t, ht, -⟩ := runIot_to_fetch i code (s := s) hwf
    rw [hexec]
    exact ⟨t, ht⟩

/-- An assigned display instruction always goes on. -/
theorem exec_goesOn_of_display (hi : i.decoder ≠ .main) (hassigned : isUnassigned i = false) :
    goesOn (exec i s) := by
  cases i with
  | dopr | dlxa | dlya | deim | dlvh | djms | djmp | sgr1 | dhlt | dnop | dhvc | dixm | diym | ddxm
  | ddym | drjm | ddsp | dsts | dstb | dlpn | incVec | incCtl => exact ⟨_, rfl⟩
  | unassignedDisplay => cases hassigned
  | _ => exact absurd rfl hi

/-- What an order is between its transitions (R121). -/
theorem runsAs_order_of_isOrder (h : isOrder i) :
    ∃ r p, mainRecord i = some r ∧ ∀ s, exec i s = runOrder i r.indirect r.data p s := by
  obtain ⟨r, hrecord, hclass⟩ := h
  cases runsAs_of_mainRecord hrecord with
  | order p _ hexec => exact ⟨r, p, hrecord, hexec⟩
  | operate _ hoperate => simp [hclass] at hoperate
  | iot _ hoperate => simp [hclass] at hoperate

/-- An order between its transitions goes on, whatever the registry. -/
theorem exec_goesOn_of_isOrder (h : isOrder i) : goesOn (exec i s) := by
  obtain ⟨r, p, -, hexec⟩ := runsAs_order_of_isOrder h
  rw [hexec]
  exact runOrder_goesOn _ _ _ _ s

theorem mainStep_of_stopped (h : s.main.mstate ≠ .running) : mainStep s = .next s := if_neg h

/-! ### Consistent transitions (R121, R129) -/

theorem transitionsConsistent_of_fetch (h : s.main.fsm = .fetch) : transitionsConsistent s where
  notRunning _ := h
  order hne := absurd h hne
  defer hdefer := by simp [h] at hdefer

/-- Only the run state, FSM and IR matter. -/
theorem transitionsConsistent_congr (hs : transitionsConsistent s)
    (hrun : t.main.mstate = s.main.mstate ∨ t.main.mstate = .running)
    (hfsm : t.main.fsm = s.main.fsm) (hir : t.main.ir = s.main.ir) : transitionsConsistent t where
  notRunning hstop := by
    rcases hrun with hrun | hrun
    · rw [hfsm]
      exact hs.notRunning (hrun ▸ hstop)
    · exact absurd hrun hstop
  order hne := by
    rw [hir]
    exact hs.order (hfsm ▸ hne)
  defer hdefer := by
    rw [hir]
    exact hs.defer (hfsm ▸ hdefer)

theorem transitionsConsistent_of_inProgress {fsm : Fsm} (h : InProgress i fsm s) (horder : isOrder i)
    (hindirect : fsm = .defer → isIndirect i) : transitionsConsistent s where
  notRunning hstop := absurd h.running hstop
  order _ := by
    rw [h.ir]
    exact horder
  defer hdefer := by
    rw [h.ir]
    exact hindirect (h.fsm ▸ hdefer)

/-- Fetch of an order goes to one of its next transitions; any other instruction is back in Fetch. -/
theorem mainStep_fetch_consistent (hcoh : cachesCoherent s) (hrun : s.main.mstate = .running)
    (hfsm : s.main.fsm = .fetch) (h : mainStep s = .next t) : transitionsConsistent t := by
  obtain ⟨v, mc, hstep⟩ := mainStep_of_fetch hrun hfsm hcoh
  rw [hstep] at h
  cases hassigned : isUnassigned (decodeMainWord (memRead s s.main.pc)) with
  | true =>
    rw [exec_of_unassigned_main hassigned] at h
    cases h
  | false =>
    obtain ⟨r, hrecord⟩ := mainRecord_of_assigned (decodeMainWord_decoder _) hassigned
    cases runsAs_of_mainRecord hrecord with
    | order p hclass hexec =>
      obtain ⟨u, hu, hprogress⟩ := fetch_order hexec
        (s := { s with main := { s.main with ds := v }, mcache := mc }) hrun hfsm
      rw [hu] at h
      cases h
      refine transitionsConsistent_of_inProgress hprogress ⟨r, hrecord, hclass⟩ fun hdefer => ?_
      refine ⟨r, hrecord, ?_⟩
      by_contra hdirect
      simp [hdirect] at hdefer
    | operate p _ _ hkeeps hexec =>
      obtain ⟨u, hu, hfetch⟩ := runOperate_to_fetch (decodeMainWord (memRead s s.main.pc)) hkeeps
        { s with main := { s.main with ds := v }, mcache := mc }
      rw [hexec, hu] at h
      cases h
      exact transitionsConsistent_of_fetch hfetch
    | iot code _ _ hexec =>
      rw [hexec] at h
      exact transitionsConsistent_of_fetch (runIot_fsm h)

/-- Defer goes to Execute with the same order, and Execute ends it. -/
theorem mainStep_consistent (hcoh : cachesCoherent s) (hs : transitionsConsistent s)
    (h : mainStep s = .next t) : transitionsConsistent t := by
  by_cases hrun : s.main.mstate = .running
  · cases hfsm : s.main.fsm with
    | fetch => exact mainStep_fetch_consistent hcoh hrun hfsm h
    | defer =>
      have horder : isOrder s.main.ir := hs.order (by simp [hfsm])
      obtain ⟨r, p, -, hexec⟩ := runsAs_order_of_isOrder horder
      obtain ⟨u, hu, hprogress⟩ := mainStep_defer hexec ⟨hrun, hfsm, rfl⟩
      rw [hu] at h
      cases h
      exact transitionsConsistent_of_inProgress hprogress horder nofun
    | execute =>
      have horder : isOrder s.main.ir := hs.order (by simp [hfsm])
      obtain ⟨r, p, -, hexec⟩ := runsAs_order_of_isOrder horder
      obtain ⟨u, hu, hfetch⟩ := mainStep_execute hexec ⟨hrun, hfsm, rfl⟩
      rw [hu] at h
      cases h
      exact transitionsConsistent_of_fetch hfetch
  · rw [mainStep_of_stopped hrun] at h
    cases h
    exact hs

end

end Sys2Proof.StepFrames
end

section
/-! Rules about whole steps (spec 10_state.md R27, 40_main_fsm.md R129, 43_main_iot.md section 4,
60_exceptions.md R320 to R327): what a host request leaves of the control state and the latch, and what
each step of the Main Processor may fetch. -/

namespace Sys2Proof.StepRules

open Sys2Proof.Machine Sys2Proof.Transitions Sys2Proof.EveryWord Sys2Proof.Changes
  Sys2Proof.StepFrames

section

variable {i : Instr} {s t : State} {f : Fault}

/-! ### The request and the fetch -/

theorem nextRequest_frame (s : State) :
    ∃ agenda tick, (nextRequest s).2 = { s with agenda := agenda, tick := tick } := by
  unfold nextRequest
  split
  next => exact ⟨_, _, rfl⟩
  next => exact ⟨_, _, rfl⟩

/-- The poll writes DS and the fetch a slot of the Main cache (R64, R130). -/
theorem nextMainInstr_frame (s : State) :
    ∃ v mc, (nextMainInstr (pollSwitches s)).2 =
      { s with main := { s.main with ds := v }, mcache := mc } := by
  obtain ⟨v, hpoll⟩ := pollSwitches_eq s
  rw [hpoll]
  unfold nextMainInstr
  split
  next =>
    obtain ⟨mc, hsnd, -⟩ := fetchMainWord_snd (s.onMain fun m => { m with ds := v }) s.main.pc
    exact ⟨v, mc, hsnd⟩
  next => exact ⟨v, s.mcache, rfl⟩
  next => exact ⟨v, s.mcache, rfl⟩

/-- What a Running Main Processor runs is a Main instruction: a decoded word, or the order in IR. -/
theorem nextMainInstr_decoder (hcoh : cachesCoherent s) (hs : transitionsConsistent s) :
    (nextMainInstr (pollSwitches s)).1.decoder = .main := by
  obtain ⟨v, hpoll⟩ := pollSwitches_eq s
  have hir : s.main.fsm ≠ .fetch → s.main.ir.decoder = .main := fun hne => by
    obtain ⟨r, hrecord, -⟩ := hs.order hne
    exact decoder_of_mainRecord hrecord
  have hpolled : cachesCoherent (s.onMain fun m => { m with ds := v }) :=
    ⟨hcoh.main, hcoh.display⟩
  rw [hpoll]
  unfold nextMainInstr
  split
  next =>
    rw [fetchMainWord_fst _ _ hpolled]
    exact decodeMainWord_decoder _
  next hfsm => exact hir fun hfetch => by simp [hfetch] at hfsm
  next hfsm => exact hir fun hfetch => by simp [hfetch] at hfsm

/-- Settles O49: a Main instruction keeps the drawing state. -/
theorem mainStepsLeaveDrawingState : Obligations.MainStepsLeaveDrawingState := by
  intro s t hcoh hs h
  by_cases hrun : s.main.mstate = .running
  · obtain ⟨v, mc, hframe⟩ := nextMainInstr_frame s
    rw [mainStep_of_running hrun] at h
    have hkept := mainWork_drawingKept (exec_mainWork (nextMainInstr_decoder hcoh hs) h)
    rw [hframe] at hkept
    exact ⟨hkept.disp, hkept.sink, hkept.params, hkept.breakpoints, hkept.switches, hkept.mapping⟩
  · rw [mainStep_of_stopped hrun] at h
    cases h
    exact ⟨rfl, rfl, rfl, rfl, rfl, rfl⟩

/-! ### Consistent transitions -/

theorem serve_consistent {r : HostRequest} (hcoh : cachesCoherent s) (hs : transitionsConsistent s)
    (h : serve r s = .next t) : transitionsConsistent t := by
  have hkeep {t : State} (hmain : t.main = s.main) : transitionsConsistent t :=
    transitionsConsistent_congr hs (.inl (by rw [hmain])) (by rw [hmain]) (by rw [hmain])
  cases r with
  | mainStep => exact mainStep_consistent hcoh hs h
  | dispStep =>
    refine hkeep ?_
    rw [displayStepsLeaveMainAndMemory s t hcoh h]
  | reset => cases h; exact transitionsConsistent_of_fetch rfl
  | resumeMain => cases h; exact transitionsConsistent_congr hs (.inr rfl) rfl rfl
  | depositMain =>
    obtain ⟨m, rfl, -, hmstate, hfsm, hir⟩ := depositMain_eq_next h
    exact transitionsConsistent_congr hs (.inl hmstate) hfsm hir
  | resumeDisplay =>
    obtain ⟨_, rfl⟩ := resumeDisplay_eq_next h
    exact hkeep rfl
  | depositDisplay reg v =>
    obtain ⟨-, rfl⟩ := depositDisplay_eq_next h
    exact hkeep (by cases reg <;> rfl)
  | depositFrameCount =>
    obtain ⟨-, rfl⟩ := depositFrameCount_eq_next h
    exact hkeep rfl
  | depositStack => rw [depositStack_eq_next h]; exact hkeep rfl
  | store | setBreakpoints | setReadiness | setSwitches | setDevices => cases h; exact hkeep rfl

/-- Settles O58: each request keeps the transitions consistent. -/
theorem stepKeepsTransitionsConsistent : Obligations.StepKeepsTransitionsConsistent := by
  intro s t hcoh hs h
  obtain ⟨agenda, tick, hframe⟩ := nextRequest_frame s
  rw [step, hframe] at h
  exact serve_consistent (s := { s with agenda := agenda, tick := tick })
    ⟨hcoh.main, hcoh.display⟩ ⟨hs.notRunning, hs.order, hs.defer⟩ h

/-! ### The frame-sync latch -/

theorem depositedDisplay_frameLatch (reg : DispReg) (v : Word) (s : State) :
    (depositedDisplay reg v s).disp.frameLatch =
      if reg = .frameLatch then v.getLsbD 0 else s.disp.frameLatch := by
  cases reg <;> rfl

/-- The requests that clear a set latch. -/
theorem serve_clears_frameLatch {r : HostRequest} (hcoh : cachesCoherent s)
    (h : serve r s = .next t) (hset : s.disp.frameLatch = true) (hclear : t.disp.frameLatch = false) :
    r = .reset
    ∨ (r = .mainStep ∧ s.main.mstate = .running
        ∧ (nextMainInstr (pollSwitches s)).1.expand = .iot 0x039)
    ∨ (s.disp.dstate ≠ .running
        ∧ ∃ v : Word, v.getLsbD 0 = false ∧ r = .depositDisplay .frameLatch v) := by
  have hkept : t.disp.frameLatch ≠ s.disp.frameLatch := by rw [hset, hclear]; decide
  cases r with
  | reset => exact .inl rfl
  | mainStep =>
    by_cases hrun : s.main.mstate = .running
    · obtain ⟨v, mc, hframe⟩ := nextMainInstr_frame s
      have hexec : mainStep s = .next t := h
      rw [mainStep_of_running hrun] at hexec
      rcases exec_frameLatch hexec with hlatch | hscf
      · rw [hframe] at hlatch
        exact absurd hlatch hkept
      · exact .inr (.inl ⟨rfl, hrun, hscf⟩)
    · have hstay : mainStep s = .next t := h
      rw [mainStep_of_stopped hrun] at hstay
      cases hstay
      exact absurd rfl hkept
  | dispStep =>
    have hlatch := dispStep_frameLatch hcoh h hset
    simp [hlatch] at hclear
  | depositDisplay reg v =>
    obtain ⟨hstop, rfl⟩ := depositDisplay_eq_next h
    rw [depositedDisplay_frameLatch] at hclear hkept
    split at hclear
    next hreg => exact .inr (.inr ⟨hstop, v, hclear, by rw [hreg]⟩)
    next hreg => exact absurd (if_neg hreg) hkept
  | resumeDisplay =>
    obtain ⟨_, rfl⟩ := resumeDisplay_eq_next h
    exact absurd rfl hkept
  | depositFrameCount =>
    obtain ⟨-, rfl⟩ := depositFrameCount_eq_next h
    exact absurd rfl hkept
  | depositStack => exact absurd (by rw [depositStack_eq_next h]; rfl) hkept
  | depositMain =>
    obtain ⟨m, rfl, -⟩ := depositMain_eq_next h
    exact absurd rfl hkept
  | resumeMain | store | setBreakpoints | setReadiness | setSwitches | setDevices =>
    cases h
    exact absurd rfl hkept

/-- Settles O50: taking the request off does not touch the latch, the run states or the caches. -/
theorem onlyScfResetOrDepositClearsLatch : Obligations.OnlyScfResetOrDepositClearsLatch := by
  intro s t hcoh h hset hclear
  obtain ⟨agenda, tick, hframe⟩ := nextRequest_frame s
  rw [step, hframe] at h
  have hrule := serve_clears_frameLatch (s := { s with agenda := agenda, tick := tick })
    ⟨hcoh.main, hcoh.display⟩ h hset hclear
  rw [hframe]
  exact hrule

/-! ### Fatal errors -/

theorem not_fault_of_goesOn {r : Result} (h : goesOn r) : r ≠ .fault f := by
  obtain ⟨t, rfl⟩ := h
  nofun

theorem fault_iff_of_eq {g : Fault} {r : Result} (h : r = .fault g) : r = .fault f ↔ f = g := by
  rw [h]
  constructor
  · intro heq; cases heq; rfl
  · rintro rfl; rfl

theorem mainStep_fault_iff (hwf : s.params.wf = true) (hcoh : cachesCoherent s)
    (hs : transitionsConsistent s) :
    mainStep s = .fault f ↔
      s.main.mstate = .running ∧ s.main.fsm = .fetch
        ∧ isUnassigned (decodeMainWord (memRead s s.main.pc)) = true
        ∧ f = .unimplementedInstruction (memRead s s.main.pc) s.main.pc := by
  by_cases hrun : s.main.mstate = .running
  case neg => simp [hrun, mainStep_of_stopped hrun]
  by_cases hfsm : s.main.fsm = .fetch
  case neg =>
    obtain ⟨u, hstep, -⟩ := mainStep_of_inProgress ⟨hrun, rfl, rfl⟩ hfsm
    simp [hfsm, hstep, not_fault_of_goesOn (exec_goesOn_of_isOrder (hs.order hfsm))]
  obtain ⟨v, mc, hstep⟩ := mainStep_of_fetch hrun hfsm hcoh
  cases hassigned : isUnassigned (decodeMainWord (memRead s s.main.pc)) with
  | true =>
    rw [hstep, fault_iff_of_eq (exec_of_unassigned_main hassigned _)]
    simp [hrun, hfsm]
  | false =>
    obtain ⟨r, hrecord⟩ := mainRecord_of_assigned (decodeMainWord_decoder _) hassigned
    have hgo : goesOn (mainStep s) := by
      rw [hstep]
      exact exec_goesOn_of_mainRecord hrecord (registry_wf_of_params_wf hwf)
    simp [not_fault_of_goesOn hgo]

theorem dispStep_fault_iff (hcoh : cachesCoherent s) :
    dispStep s = .fault f ↔
      s.disp.dstate = .running ∧ s.disp.dmode = .processor
        ∧ isUnassigned (decodeDisplayWord s.params.dblockBits (memRead s s.disp.dpc)) = true
        ∧ f = .unimplementedInstruction (memRead s s.disp.dpc) s.disp.dpc := by
  by_cases hrun : s.disp.dstate = .running
  case neg => simp [hrun, dispStep_of_stopped hrun]
  obtain ⟨hdecoder, dc, us, hsnd⟩ := nextDisplayInstr_spec (frameTick_coherent hcoh)
  obtain ⟨cnt, latch, sink, htick⟩ := frameTick_frame s
  rw [dispStep_of_running hrun, thenTested_eq_fault_iff]
  cases hmode : s.disp.dmode with
  | increment =>
    have hhalf : (nextDisplayInstr (frameTick s)).1 = decodeHalf (currentHalf (frameTick s).disp) := by
      rw [nextDisplayInstr, htick]
      simp only [hmode]
    obtain ⟨-, -, hassigned⟩ := decodeHalf_cases (currentHalf (frameTick s).disp)
    simp [not_fault_of_goesOn (exec_goesOn_of_display hdecoder (hhalf ▸ hassigned))]
  | processor =>
    have hword : (nextDisplayInstr (frameTick s)).1 =
        decodeDisplayWord s.params.dblockBits (memRead s s.disp.dpc) := by
      have hfetch : nextDisplayInstr (frameTick s) =
          fetchDisplayWord (frameTick s) s.disp.dpc := by
        rw [nextDisplayInstr, htick]
        simp only [hmode]
      rw [hfetch, fetchDisplayWord_fst _ _ (frameTick_coherent hcoh), htick]
      rfl
    cases hassigned : isUnassigned (decodeDisplayWord s.params.dblockBits (memRead s s.disp.dpc)) with
    | true =>
      rw [hword, fault_iff_of_eq (exec_of_unassigned_display hassigned _), hsnd, htick]
      simp [hrun]
    | false =>
      simp [not_fault_of_goesOn (exec_goesOn_of_display hdecoder (hword ▸ hassigned))]

/-- Settles O30: every other instruction that a step can run goes on. -/
theorem fatalErrorsAreUndecodableFetches : Obligations.FatalErrorsAreUndecodableFetches :=
  fun _ _ hwf hcoh hs => ⟨mainStep_fault_iff hwf hcoh hs, dispStep_fault_iff hcoh⟩

end

end Sys2Proof.StepRules
end

section
/-! The registry and the external devices (spec 43_main_iot.md R230 to R236): what registration makes of
the claims, in their order, and the dispatch to a device that owns a code. -/

namespace Sys2Proof.Registration

open Sys2Proof.Machine Sys2Proof.Transitions Sys2Proof.IotEffects

/-! ### Owners -/

theorem owner_eq_none_iff (r : Registry) (code : IotCode) :
    owner r code = none ↔ code ∉ r.map Prod.fst := by
  induction r with
  | nil => simp [owner]
  | cons e rest ih =>
    obtain ⟨c, d⟩ := e
    rw [owner, List.map_cons, List.mem_cons, not_or, ← ih]
    split
    next h => simp [h]
    next h => simp [Ne.symm h]

theorem ownersDistinct_of_nodup {r : Registry} (h : (r.map Prod.fst).Nodup) :
    r.ownersDistinct = true := by
  induction r with
  | nil => rfl
  | cons e rest ih =>
    obtain ⟨c, d⟩ := e
    rw [List.map_cons, List.nodup_cons] at h
    obtain ⟨hfresh, hrest⟩ := h
    simp only [Registry.ownersDistinct, ih hrest, Bool.and_true, Bool.not_eq_true', List.any_eq_false,
      beq_iff_eq]
    exact fun e he heq => hfresh (List.mem_map.mpr ⟨e, he, heq⟩)

/-- With one owner a code, the owner is the device of the code's entry. -/
theorem owner_eq_some_iff {r : Registry} (h : (r.map Prod.fst).Nodup) (code : IotCode) (d : Device) :
    owner r code = some d ↔ (code, d) ∈ r :=
  ⟨mem_of_owner, owner_of_mem (ownersDistinct_of_nodup h)⟩

/-! ### Registration -/

/-- The entries of one device's claims. -/
def claims (d : Device) (codes : List IotCode) : Registry := codes.map fun c => (c, d)

/-- The entries of all claims, device by device. -/
def allClaims (devices : List (Device × List IotCode)) : Registry :=
  devices.flatMap fun e => claims e.1 e.2

@[simp] theorem claims_codes (d : Device) (codes : List IotCode) :
    (claims d codes).map Prod.fst = codes := by
  simp [claims, Function.comp_def]

@[simp] theorem allClaims_codes (devices : List (Device × List IotCode)) :
    (allClaims devices).map Prod.fst = devices.flatMap Prod.snd := by
  simp [allClaims, List.map_flatMap]

theorem mem_allClaims (devices : List (Device × List IotCode)) (code : IotCode) (d : Device) :
    (code, d) ∈ allClaims devices ↔ ∃ e ∈ devices, e.1 = d ∧ code ∈ e.2 := by
  simp only [allClaims, claims, List.mem_flatMap, List.mem_map, Prod.mk.injEq]
  constructor
  · rintro ⟨e, he, c, hc, rfl, rfl⟩
    exact ⟨e, he, rfl, hc⟩
  · rintro ⟨e, he, rfl, hc⟩
    exact ⟨e, he, code, hc, rfl, rfl⟩

theorem registerCode_of_fresh {r : Registry} {code : IotCode} (h : code ∉ r.map Prod.fst) (d : Device) :
    registerCode d code r = .ok (r ++ [(code, d)]) := by
  rw [registerCode, (owner_eq_none_iff r code).mpr h]

theorem registerCode_of_owned {r : Registry} {code : IotCode} (h : code ∈ r.map Prod.fst) (d : Device) :
    registerCode d code r = .error (.iotRegistryConflict code) := by
  rw [registerCode]
  split
  next => rfl
  next hnone => exact absurd h ((owner_eq_none_iff r code).mp hnone)

/-- Claims of codes that are owned once each are all entered (R234). -/
theorem registerCodes_ok {d : Device} {codes : List IotCode} {r : Registry}
    (h : (r.map Prod.fst ++ codes).Nodup) : registerCodes d codes r = .ok (r ++ claims d codes) := by
  induction codes generalizing r with
  | nil => simp [registerCodes, claims]
  | cons c rest ih =>
    have hfresh : c ∉ r.map Prod.fst := fun hmem =>
      List.disjoint_of_nodup_append h hmem (List.mem_cons_self ..)
    have hrest : ((r ++ [(c, d)]).map Prod.fst ++ rest).Nodup := by simpa using h
    simp only [registerCodes, registerCode_of_fresh hfresh, ih hrest]
    simp [claims]

/-- Claims of a code for the second time stop there (R235). -/
theorem registerCodes_error {d : Device} {codes : List IotCode} {r : Registry}
    (hr : (r.map Prod.fst).Nodup) (h : ¬ (r.map Prod.fst ++ codes).Nodup) :
    ∃ code, registerCodes d codes r = .error (.iotRegistryConflict code)
      ∧ 2 ≤ (r.map Prod.fst ++ codes).count code := by
  induction codes generalizing r with
  | nil => simp [hr] at h
  | cons c rest ih =>
    by_cases howned : c ∈ r.map Prod.fst
    · refine ⟨c, by simp only [registerCodes, registerCode_of_owned howned], ?_⟩
      have hone : 0 < (r.map Prod.fst).count c := List.count_pos_iff.mpr howned
      rw [List.count_append, List.count_cons_self]
      omega
    · have hcodes : (r ++ [(c, d)]).map Prod.fst ++ rest = r.map Prod.fst ++ c :: rest := by simp
      have hr' : ((r ++ [(c, d)]).map Prod.fst).Nodup := by
        rw [List.map_append]
        refine List.nodup_append.mpr ⟨hr, List.nodup_singleton c, fun a ha b hb hab => howned ?_⟩
        have hbc : b = c := List.mem_singleton.mp hb
        rwa [← hbc, ← hab]
      obtain ⟨code, herror, hcount⟩ := ih hr' (by rwa [hcodes])
      refine ⟨code, ?_, by rwa [hcodes] at hcount⟩
      simp only [registerCodes, registerCode_of_fresh howned, herror]

theorem registerDevices_ok {devices : List (Device × List IotCode)} {r : Registry}
    (h : (r.map Prod.fst ++ devices.flatMap Prod.snd).Nodup) :
    registerDevices devices r = .ok (r ++ allClaims devices) := by
  induction devices generalizing r with
  | nil => simp [registerDevices, allClaims]
  | cons e rest ih =>
    obtain ⟨d, codes⟩ := e
    rw [List.flatMap_cons, ← List.append_assoc] at h
    have hrest : ((r ++ claims d codes).map Prod.fst ++ rest.flatMap Prod.snd).Nodup := by
      simpa using h
    simp only [registerDevices, registerCodes_ok (List.Nodup.of_append_left h), ih hrest]
    simp [allClaims]

theorem registerDevices_error {devices : List (Device × List IotCode)} {r : Registry}
    (hr : (r.map Prod.fst).Nodup) (h : ¬ (r.map Prod.fst ++ devices.flatMap Prod.snd).Nodup) :
    ∃ code, registerDevices devices r = .error (.iotRegistryConflict code)
      ∧ 2 ≤ (r.map Prod.fst ++ devices.flatMap Prod.snd).count code := by
  induction devices generalizing r with
  | nil => simp [hr] at h
  | cons e rest ih =>
    obtain ⟨d, codes⟩ := e
    rw [List.flatMap_cons, ← List.append_assoc] at h ⊢
    by_cases hcodes : (r.map Prod.fst ++ codes).Nodup
    · have hmap : (r ++ claims d codes).map Prod.fst = r.map Prod.fst ++ codes := by simp
      obtain ⟨code, herror, hcount⟩ := ih (r := r ++ claims d codes) (by rwa [hmap]) (by rwa [hmap])
      refine ⟨code, ?_, by rwa [hmap] at hcount⟩
      simp only [registerDevices, registerCodes_ok hcodes, herror]
    · obtain ⟨code, herror, hcount⟩ := registerCodes_error (d := d) hr hcodes
      refine ⟨code, by simp only [registerDevices, herror], ?_⟩
      show 2 ≤ (r.map Prod.fst ++ codes ++ rest.flatMap Prod.snd).count code
      rw [List.count_append]
      omega

/-! ### External devices -/

theorem dispatchIot_of_external {code : IotCode} {id : Nat} {s : State}
    (hign : s.params.ignoredIotCode ≠ some code)
    (howner : owner s.params.registry code = some (.external id)) :
    dispatchIot code s = .ok (externalIot id code s) := by
  simp only [dispatchIot, if_neg hign, howner]

/-! ### The obligations -/

/-- Settles O25: the three values are those of the device's reply. -/
theorem externalIotFrame : Obligations.ExternalIotFrame := by
  intro code id s hfsm hign howner
  let reply := Config.deviceReply id code s.main.ac s.main.l s.inputs.ready s.devices
  refine ⟨reply.ac, reply.ready, reply.devices, ?_⟩
  exact runIot_of_dispatch hfsm (fun _ => rfl) rfl (dispatchIot_of_external hign howner)

/-- Settles O28: registration enters every claim, or stops at the first that repeats a code. -/
theorem registrationGivesOneOwner : Obligations.RegistrationGivesOneOwner := by
  refine fun devices => ⟨fun hnodup => ?_, fun hrepeat => ?_⟩
  · refine ⟨allClaims devices, registerDevices_ok (r := []) hnodup, fun d code => ?_⟩
    rw [owner_eq_some_iff (by rwa [allClaims_codes]), mem_allClaims]
  · exact registerDevices_error (r := []) List.nodup_nil hrepeat

end Sys2Proof.Registration
end

section
/-! What an instruction does not see (spec 30_encoding.md R105, 20_memory.md R66): the spelling that IR
holds, and the two decode caches. Changing either before an instruction is changing it after. -/

namespace Sys2Proof.Unseen

open Sys2Proof.Machine Sys2Proof.Transitions Sys2Proof.OrderEffects Sys2Proof.OperateEffects
  Sys2Proof.ShiftEffects Sys2Proof.IotEffects Sys2Proof.Registration

/-! ### The operate class and IOT -/

/-- The state with another instruction in IR and other caches. -/
def veil (ir : Instr → Instr) (mc dc : List (Nat × Instr) → List (Nat × Instr)) (s : State) : State :=
  { s with main := { s.main with ir := ir s.main.ir }, mcache := mc s.mcache, dcache := dc s.dcache }

section

variable {ir : Instr → Instr} {mc dc : List (Nat × Instr) → List (Nat × Instr)}

/-- An effect that does not see IR or the caches. -/
def Blind (ir : Instr → Instr) (mc dc : List (Nat × Instr) → List (Nat × Instr)) (p : Perform) : Prop :=
  ∀ s, p (veil ir mc dc s) = (veil ir mc dc (p s).1, (p s).2)

theorem complete_veil (next : Word) (s : State) :
    complete next (veil ir mc dc s) = veil ir mc dc (complete next s) := by
  rw [complete_eq, complete_eq]
  rfl

theorem performOpr_blind {nh oda cml cll iac cma cla : Bool} :
    Blind ir mc dc (performOpr nh oda cml cll iac cma cla) := by
  intro s
  rw [performOpr_eq, performOpr_eq]
  rfl

theorem performShift_blind {step1 : Accumulator → Accumulator} {on : Bool} {cnt : BitVec 2} :
    Blind ir mc dc (performShift step1 on cnt) := by
  intro s
  rw [performShift_eq, performShift_eq]
  rfl

theorem performSkp_blind {neg : Bool} {cond : BitVec 9} : Blind ir mc dc (performSkp neg cond) :=
  fun _ => rfl

theorem displayIot_veil (code : IotCode) (s : State) :
    displayIot code (veil ir mc dc s) = (displayIot code s).map (veil ir mc dc) := by
  by_cases hmem : code ∈ displayCodes
  · simp only [displayCodes, List.mem_cons, List.not_mem_nil, or_false] at hmem
    rcases hmem with rfl | rfl | rfl | rfl
    · rfl
    · rfl
    · rfl
    · exact congrArg Except.ok (by rw [resumeHaltedDisplay_eq, resumeHaltedDisplay_eq]; rfl)
  · rw [displayIot_of_not_mem hmem, displayIot_of_not_mem hmem]
    rfl

theorem dispatchIot_veil (code : IotCode) (s : State) :
    dispatchIot code (veil ir mc dc s) = (dispatchIot code s).map (veil ir mc dc) := by
  by_cases hign : s.params.ignoredIotCode = some code
  · rw [dispatchIot_of_ignored hign, dispatchIot_of_ignored (s := veil ir mc dc s) hign]
    rfl
  cases howner : owner s.params.registry code with
  | none =>
    rw [dispatchIot_of_unowned hign howner, dispatchIot_of_unowned (s := veil ir mc dc s) hign howner]
    rfl
  | some d =>
    cases d with
    | display =>
      rw [dispatchIot_of_display hign howner,
        dispatchIot_of_display (s := veil ir mc dc s) hign howner]
      exact displayIot_veil code s
    | external id =>
      rw [dispatchIot_of_external hign howner,
        dispatchIot_of_external (s := veil ir mc dc s) hign howner]
      rfl

end

/-! ### Names (R105) -/

section

variable {p : Perform} {s : State}

/-- An operate instruction is the same under any spelling, but for IR. -/
theorem forgetIr_runOperate (hp : ∀ ir, Blind ir id id p) (i j : Instr) (s : State) :
    forgetIr (runOperate i p s) = forgetIr (runOperate j p s) := by
  have hspell (i : Instr) : forgetIr (runOperate i p s) =
      forgetIr (.next (complete (p (latch .nop .fetch s)).2 (p (latch .nop .fetch s)).1)) := by
    have hlatch : latch i .fetch s = veil (fun _ => i) id id (latch .nop .fetch s) := rfl
    rw [runOperate_eq, hlatch, hp, complete_veil]
    rfl
  rw [hspell i, hspell j]

/-- So is an IOT. -/
theorem forgetIr_runIot (i j : Instr) (code : IotCode) (s : State) :
    forgetIr (runIot i code s) = forgetIr (runIot j code s) := by
  have hspell (i : Instr) :
      forgetIr (runIot i code s) = forgetIr (runIot .nop code s) := by
    have hlatch : latch i .fetch s = veil (fun _ => i) id id (latch .nop .fetch s) := rfl
    have hdispatch := dispatchIot_veil (ir := fun _ => i) (mc := id) (dc := id) code
      (latch .nop .fetch s)
    rw [← hlatch] at hdispatch
    cases hnop : dispatchIot code (latch .nop .fetch s) with
    | error f =>
      rw [hnop] at hdispatch
      rw [runIot_of_error hdispatch, runIot_of_error hnop]
    | ok t =>
      rw [hnop] at hdispatch
      rw [runIot_eq_runOperate hdispatch, runIot_eq_runOperate hnop, runOperate_eq, runOperate_eq,
        complete_veil]
      rfl
  rw [hspell i, hspell j]

/-- Settles O52: a name latches itself where its expansion latches the row, and nothing else differs. -/
theorem namesMeanTheirExpansion : Obligations.NamesMeanTheirExpansion := by
  intro i s
  cases i with
  | hlt | nop | cla | cma | sta | iac | coa | cia | cll | cal | cml | stl | oda | lda =>
    exact forgetIr_runOperate (fun _ => performOpr_blind) _ _ s
  | don => exact forgetIr_runOperate (fun _ => performShift_blind) _ _ s
  | asz | asn | asp | asm | lsz | lsn | dsf | dsn | ksf | ksn | rsf | rsn | tsf | tsn | ssf | ssn
  | hsf | hsn => exact forgetIr_runOperate (fun _ => performSkp_blind) _ _ s
  | dla | dof | scf | drs => exact forgetIr_runIot _ _ _ s
  | _ => rfl

end

end Sys2Proof.Unseen
end

section
/-! The decode caches cannot be observed (spec 20_memory.md R64 to R66): every instruction and every host
request answers without the caches what it answers with them, and with coherent caches a fetch answers
the decoding of memory, whatever is cached. -/

namespace Sys2Proof.Caches

open Sys2Proof.Machine Sys2Proof.Transitions Sys2Proof.OrderEffects Sys2Proof.IotEffects
  Sys2Proof.DisplayEffects Sys2Proof.IncrementEffects Sys2Proof.EveryWord Sys2Proof.StepFrames
  Sys2Proof.Unseen

/-! ### Main instructions -/

/-- An effect that does not see the caches. -/
def CacheBlind (p : Perform) : Prop := ∀ s, p (withoutCaches s) = (withoutCaches (p s).1, (p s).2)

section

variable {p : Perform} (s : State)

theorem cacheBlind_of_blind (hp : Blind id (fun _ => []) (fun _ => []) p) : CacheBlind p := hp

theorem complete_withoutCaches (next : Word) :
    complete next (withoutCaches s) = withoutCaches (complete next s) :=
  complete_veil (ir := id) (mc := fun _ => []) (dc := fun _ => []) next s

theorem runOperate_withoutCaches (hp : CacheBlind p) (i : Instr) :
    runOperate i p (withoutCaches s) = forgetCaches (runOperate i p s) := by
  have hlatch : latch i .fetch (withoutCaches s) = withoutCaches (latch i .fetch s) := rfl
  rw [runOperate_eq, hlatch, hp, complete_withoutCaches]
  rfl

theorem runIot_withoutCaches (i : Instr) (code : IotCode) :
    runIot i code (withoutCaches s) = forgetCaches (runIot i code s) := by
  have hdispatch : dispatchIot code (latch i .fetch (withoutCaches s)) =
      (dispatchIot code (latch i .fetch s)).map withoutCaches :=
    dispatchIot_veil (ir := id) (mc := fun _ => []) (dc := fun _ => []) code (latch i .fetch s)
  cases h : dispatchIot code (latch i .fetch s) with
  | error f =>
    rw [h] at hdispatch
    rw [runIot_of_error hdispatch, runIot_of_error h]
    rfl
  | ok t =>
    rw [h] at hdispatch
    rw [runIot_eq_runOperate hdispatch, runIot_eq_runOperate h, runOperate_eq, runOperate_eq,
      complete_withoutCaches]
    rfl

theorem deferTransition_withoutCaches (d : BitVec 11) :
    deferTransition d (withoutCaches s) = withoutCaches (deferTransition d s) := by
  have hpage : pageAddress (withoutCaches s) d = pageAddress s d := rfl
  rw [deferTransition_eq, deferTransition_eq, hpage]
  split <;> rfl

theorem runOrder_withoutCaches (hp : CacheBlind p) (i : Instr) (ind : Bool) (d : BitVec 11) :
    runOrder i ind d p (withoutCaches s) = forgetCaches (runOrder i ind d p s) := by
  cases hfsm : s.main.fsm with
  | fetch =>
    rw [runOrder_fetch _ _ _ _ s hfsm, runOrder_fetch _ _ _ _ (withoutCaches s) hfsm]
    rfl
  | defer =>
    rw [runOrder_defer _ _ _ _ s hfsm, runOrder_defer _ _ _ _ (withoutCaches s) hfsm,
      deferTransition_withoutCaches]
    rfl
  | execute =>
    have hat : atOperand ind d (withoutCaches s) = withoutCaches (atOperand ind d s) := rfl
    have hplain := runOrder_of_perform (i := i) (p := p) hfsm
      (show p (atOperand ind d s) = ((p (atOperand ind d s)).1, (p (atOperand ind d s)).2) from rfl)
    rw [hplain, runOrder_of_perform (s := withoutCaches s) hfsm ((congrArg p hat).trans (hp _))]
    rfl

theorem performXam_cacheBlind : CacheBlind performXam := fun s => by
  rw [performXam_eq, performXam_eq]
  rfl

theorem performDac_cacheBlind : CacheBlind performDac := fun s => by
  rw [performDac_eq, performDac_eq]
  rfl

theorem performIsz_cacheBlind : CacheBlind performIsz := fun s => by
  rw [performIsz_eq, performIsz_eq]
  rfl

theorem performJms_cacheBlind : CacheBlind performJms := fun s => by
  rw [performJms_eq, performJms_eq]
  rfl

theorem performSam_cacheBlind : CacheBlind performSam := fun s => by
  rw [performSam_eq, performSam_eq]
  rfl

theorem performLogic_cacheBlind (f : Word → Word → Word) : CacheBlind (performLogic f) := fun s => by
  rw [performLogic_eq, performLogic_eq]
  rfl

theorem performArith_cacheBlind (f : Accumulator → Word → Accumulator) :
    CacheBlind (performArith f) := fun s => by
  rw [performArith, performArith, readOp_eq_testedAtEa, readOp_eq_testedAtEa]
  rfl

/-! ### Display instructions -/

theorem displayDone_withoutCaches (ret : Bool) (dnext : Word) :
    displayDone ret dnext (withoutCaches s) = withoutCaches (displayDone ret dnext s) := by
  cases ret with
  | false => rfl
  | true =>
    rw [← displayReturn_done, ← displayReturn_done, if_pos rfl, if_pos rfl]
    cases hstack : s.disp.dstack with
    | nil =>
      rw [displayReturn_of_nil hstack, displayReturn_of_nil (s := withoutCaches s) hstack]
      rfl
    | cons top rest =>
      rw [displayReturn_of_cons hstack, displayReturn_of_cons (s := withoutCaches s) hstack]
      rfl

theorem halfDone_withoutCaches : halfDone (withoutCaches s) = withoutCaches (halfDone s) := by
  by_cases hfirst : s.disp.half = .first
  · rw [halfDone, halfDone, if_pos hfirst]
    exact if_pos hfirst
  · rw [halfDone, halfDone, if_neg hfirst]
    exact if_neg hfirst

theorem nextHalf_withoutCaches : nextHalf (withoutCaches s) = withoutCaches (nextHalf s) := by
  rw [nextHalf_eq, nextHalf_eq, halfDone_withoutCaches]

theorem escape_withoutCaches (rjm : Bool) :
    escape rjm (withoutCaches s) = withoutCaches (escape rjm s) := by
  rw [escape_eq, escape_eq]
  exact displayDone_withoutCaches { s with disp := { s.disp with dmode := .processor } } rjm _

theorem runDisplay_withoutCaches (hp : CacheBlind p) :
    runDisplay p (withoutCaches s) = forgetCaches (runDisplay p s) := by
  rw [runDisplay, hp]
  rfl

theorem runDisplay_dopr_withoutCaches (nh sync ixm iym dxm dym rjm dsp : Bool) (f c : BitVec 2) :
    runDisplay (performDopr nh sync ixm iym dxm dym rjm dsp f c) (withoutCaches s) =
      forgetCaches (runDisplay (performDopr nh sync ixm iym dxm dym rjm dsp f c) s) := by
  have heffect : doprEnd dsp f c (doprMoves nh sync ixm iym dxm dym (withoutCaches s)) =
      withoutCaches (doprEnd dsp f c (doprMoves nh sync ixm iym dxm dym s)) := by
    simp only [doprMoves, doprEnd_eq, displayFunction_eq, whenSet_stepX, whenSet_stepY,
      whenSet_not_haltDisplay, whenSet_emitMove]
    rfl
  rw [runDisplay_performDopr, runDisplay_performDopr, heffect]
  exact congrArg _ (displayDone_withoutCaches _ rjm _)

/-- A position load of a coordinate by `move` (R269, R270). -/
theorem runDisplay_load_withoutCaches {move : State → State} (hp : ∀ s, p s = finishLoad (move s))
    (hmove : move (withoutCaches s) = withoutCaches (move s)) :
    runDisplay p (withoutCaches s) = forgetCaches (runDisplay p s) := by
  rw [runDisplay_of_load (hp _), runDisplay_of_load (hp _), hmove]
  exact congrArg _ (displayDone_withoutCaches (emitMove (loadStyle (move s)) (move s)) _ _)

/-! ### Every instruction -/

/-- No instruction sees the caches (R66). -/
theorem exec_withoutCaches (i : Instr) : exec i (withoutCaches s) = forgetCaches (exec i s) := by
  cases i with
  | opr | hlt | nop | cla | cma | sta | iac | coa | cia | cll | cal | cml | stl | oda | lda =>
    exact runOperate_withoutCaches s (cacheBlind_of_blind performOpr_blind) _
  | ral | rar | sal | sar | don => exact runOperate_withoutCaches s (cacheBlind_of_blind performShift_blind) _
  | skp | asz | asn | asp | asm | lsz | lsn | dsf | dsn | ksf | ksn | rsf | rsn | tsf | tsn | ssf
  | ssn | hsf | hsn => exact runOperate_withoutCaches s (cacheBlind_of_blind performSkp_blind) _
  | iot | dla | dof | scf | drs => exact runIot_withoutCaches s _ _
  | law imm => exact runOrder_withoutCaches (p := performLaw imm) s (fun _ => rfl) _ _ _
  | lwc imm => exact runOrder_withoutCaches (p := performLwc imm) s (fun _ => rfl) _ _ _
  | jmp => exact runOrder_withoutCaches (p := performJmp) s (fun _ => rfl) _ _ _
  | dac => exact runOrder_withoutCaches s performDac_cacheBlind _ _ _
  | xam => exact runOrder_withoutCaches s performXam_cacheBlind _ _ _
  | isz => exact runOrder_withoutCaches s performIsz_cacheBlind _ _ _
  | jms => exact runOrder_withoutCaches s performJms_cacheBlind _ _ _
  | and | ior | xor | lac => exact runOrder_withoutCaches s (performLogic_cacheBlind _) _ _ _
  | add | sub => exact runOrder_withoutCaches s (performArith_cacheBlind _) _ _ _
  | sam => exact runOrder_withoutCaches s performSam_cacheBlind _ _ _
  | unassignedIot | unassignedShift | unassignedOrder3 | unassignedOrder8 | unassignedDisplay => rfl
  | dopr | dhlt | dnop | dhvc | dixm | diym | ddxm | ddym | drjm | ddsp | dsts | dstb | dlpn =>
    exact runDisplay_dopr_withoutCaches s _ _ _ _ _ _ _ _ _ _
  | dlxa v =>
    exact runDisplay_load_withoutCaches (p := performDlxa v) (move := setX (doubled v)) s
      (fun _ => rfl) rfl
  | dlya v =>
    exact runDisplay_load_withoutCaches (p := performDlya v) (move := setY (doubled v)) s
      (fun _ => rfl) rfl
  | deim b => exact runDisplay_withoutCaches (p := performDeim b) s fun _ => rfl
  | dlvh => exact runDisplay_withoutCaches (p := performDlvh) s fun _ => rfl
  | djms a => exact runDisplay_withoutCaches (p := performDjms a) s fun _ => rfl
  | djmp a => exact runDisplay_withoutCaches (p := performDjmp a) s fun _ => rfl
  | sgr1 beam ret enter =>
    exact runDisplay_withoutCaches (p := performSgr1 beam ret enter) s fun _ => rfl
  | incVec beam xneg xmag yneg ymag =>
    exact congrArg _ (nextHalf_withoutCaches (vectorHalf beam xneg xmag yneg ymag s))
  | incCtl esc rjm ixm zxl iym zyl =>
    have hdacs : controlDacs ixm zxl iym zyl (withoutCaches s) =
        withoutCaches (controlDacs ixm zxl iym zyl s) := by
      rw [controlDacs_eq, controlDacs_eq, whenSet_emitMove, whenSet_emitMove]
      rfl
    rw [exec_incCtl, exec_incCtl, hdacs]
    cases esc with
    | false => exact congrArg _ (nextHalf_withoutCaches _)
    | true => exact congrArg _ (escape_withoutCaches _ rjm)

/-- Two states that differ in the caches alone have the same outcome, but for the caches. -/
theorem forgetCaches_exec_congr {s t : State} (i : Instr) (h : withoutCaches s = withoutCaches t) :
    forgetCaches (exec i s) = forgetCaches (exec i t) := by
  rw [← exec_withoutCaches, ← exec_withoutCaches, h]

end

/-! ### The instruction of a step -/

section

variable {s : State}

theorem withoutCaches_coherent (s : State) : cachesCoherent (withoutCaches s) :=
  ⟨fun _ _ => nofun, fun _ _ => nofun⟩

theorem pollSwitches_withoutCaches (s : State) :
    pollSwitches (withoutCaches s) = withoutCaches (pollSwitches s) := by
  cases hmap : s.inputs.mapping with
  | true => simp only [pollSwitches, withoutCaches, hmap, if_true]; rfl
  | false => simp only [pollSwitches, withoutCaches, hmap, Bool.false_eq_true, if_false]

theorem frameTick_withoutCaches (s : State) :
    frameTick (withoutCaches s) = withoutCaches (frameTick s) := by
  by_cases hcross : s.params.frameCycles < s.disp.frameCnt + 1
  · simp only [frameTick_eq, withoutCaches, hcross, if_true]
  · simp only [frameTick_eq, withoutCaches, hcross, if_false]

theorem displayBreakpointTest_withoutCaches (s : State) :
    displayBreakpointTest (withoutCaches s) = withoutCaches (displayBreakpointTest s) := by
  by_cases hhit : s.disp.dstate = .running ∧ (s.disp.dmode = .processor ∨ s.disp.half = .first)
      ∧ (⟨.display, s.disp.dpc⟩ : Breakpoint) ∈ s.inputs.breakpoints
  · rw [displayBreakpointTest_eq, displayBreakpointTest_eq, if_pos hhit]
    exact if_pos hhit
  · rw [displayBreakpointTest_eq, displayBreakpointTest_eq, if_neg hhit]
    exact if_neg hhit

/-- The Main Processor's next instruction is the same, and so is the state, but for the caches. -/
theorem nextMainInstr_withoutCaches (h : cachesCoherent s) :
    (nextMainInstr (withoutCaches s)).1 = (nextMainInstr s).1
      ∧ withoutCaches (nextMainInstr (withoutCaches s)).2 = withoutCaches (nextMainInstr s).2 := by
  cases hfsm : s.main.fsm with
  | fetch =>
    have hnext (t : State) (ht : t.main = s.main) :
        nextMainInstr t = fetchMainWord t s.main.pc := by
      rw [nextMainInstr, ht]
      simp only [hfsm]
    obtain ⟨mc, hsnd, -⟩ := fetchMainWord_snd s s.main.pc
    obtain ⟨mc', hsnd', -⟩ := fetchMainWord_snd (withoutCaches s) s.main.pc
    rw [hnext s rfl, hnext (withoutCaches s) rfl, fetchMainWord_fst _ _ h,
      fetchMainWord_fst _ _ (withoutCaches_coherent s), hsnd, hsnd']
    exact ⟨rfl, rfl⟩
  | defer => simp only [nextMainInstr, withoutCaches, hfsm, and_self]
  | execute => simp only [nextMainInstr, withoutCaches, hfsm, and_self]

/-- A display fetch of an assigned word tags it, whether it was cached or not (R252). -/
theorem fetchDisplayWord_of_assigned {a : Word} (h : isUnassigned (fetchDisplayWord s a).1 = false) :
    withoutCaches (fetchDisplayWord s a).2 =
      { withoutCaches s with usage := insertAt (s.mask a).toNat .processor s.usage } := by
  unfold fetchDisplayWord at h ⊢
  simp only at h ⊢
  split at h
  next => rfl
  next => rw [if_neg (by simpa using h)]; rfl

/-- The outcome of the display's next instruction is the same, but for the caches: an assigned word is
tagged in both states, and an unassigned one is fatal in both. -/
theorem exec_nextDisplayInstr_withoutCaches (h : cachesCoherent s) :
    forgetCaches (exec (nextDisplayInstr (withoutCaches s)).1 (nextDisplayInstr (withoutCaches s)).2) =
      forgetCaches (exec (nextDisplayInstr s).1 (nextDisplayInstr s).2) := by
  cases hmode : s.disp.dmode with
  | increment =>
    have hnext (t : State) (ht : t.disp = s.disp) :
        nextDisplayInstr t = (decodeHalf (currentHalf s.disp), t) := by
      rw [nextDisplayInstr, ht]
      simp only [hmode]
    rw [hnext s rfl, hnext (withoutCaches s) rfl]
    exact forgetCaches_exec_congr _ rfl
  | processor =>
    have hnext (t : State) (ht : t.disp = s.disp) :
        nextDisplayInstr t = fetchDisplayWord t s.disp.dpc := by
      rw [nextDisplayInstr, ht]
      simp only [hmode]
    have hfst := fetchDisplayWord_fst s s.disp.dpc h
    have hfst' := fetchDisplayWord_fst (withoutCaches s) s.disp.dpc (withoutCaches_coherent s)
    have hsame : (fetchDisplayWord (withoutCaches s) s.disp.dpc).1 =
        (fetchDisplayWord s s.disp.dpc).1 := hfst'.trans hfst.symm
    rw [hnext s rfl, hnext (withoutCaches s) rfl, hsame]
    cases hassigned : isUnassigned (fetchDisplayWord s s.disp.dpc).1 with
    | true =>
      obtain ⟨dc, us, hsnd, -⟩ := fetchDisplayWord_snd s s.disp.dpc
      obtain ⟨dc', us', hsnd', -⟩ := fetchDisplayWord_snd (withoutCaches s) s.disp.dpc
      rw [hfst] at hassigned ⊢
      rw [exec_of_unassigned_display hassigned, exec_of_unassigned_display hassigned, hsnd, hsnd']
      rfl
    | false =>
      refine forgetCaches_exec_congr _ ?_
      rw [fetchDisplayWord_of_assigned (hsame ▸ hassigned), fetchDisplayWord_of_assigned hassigned]
      rfl

/-! ### Steps -/

theorem mainStep_withoutCaches (h : cachesCoherent s) :
    forgetCaches (mainStep (withoutCaches s)) = forgetCaches (mainStep s) := by
  by_cases hrun : s.main.mstate = .running
  · have hpolled : cachesCoherent (pollSwitches s) := by
      obtain ⟨v, hpoll⟩ := pollSwitches_eq s
      rw [hpoll]
      exact ⟨h.main, h.display⟩
    obtain ⟨hinstr, hstate⟩ := nextMainInstr_withoutCaches hpolled
    rw [mainStep_of_running hrun, mainStep_of_running (s := withoutCaches s) hrun,
      pollSwitches_withoutCaches, hinstr]
    exact forgetCaches_exec_congr _ hstate
  · rw [mainStep_of_stopped hrun, mainStep_of_stopped (s := withoutCaches s) hrun]
    rfl

theorem forgetCaches_thenTested (r : Result) :
    forgetCaches (thenTested r) = thenTested (forgetCaches r) := by
  cases r with
  | next t => exact congrArg _ (displayBreakpointTest_withoutCaches t).symm
  | fault | refused => rfl

theorem dispStep_withoutCaches (h : cachesCoherent s) :
    forgetCaches (dispStep (withoutCaches s)) = forgetCaches (dispStep s) := by
  by_cases hrun : s.disp.dstate = .running
  · rw [dispStep_of_running hrun, dispStep_of_running (s := withoutCaches s) hrun,
      forgetCaches_thenTested, forgetCaches_thenTested, frameTick_withoutCaches,
      exec_nextDisplayInstr_withoutCaches (frameTick_coherent h)]
  · rw [dispStep_of_stopped hrun, dispStep_of_stopped (s := withoutCaches s) hrun,
      frameTick_withoutCaches]
    rfl

/-! A request that is refused in some states is refused without the caches in the same states. -/

theorem depositMain_withoutCaches (reg : MainReg) (v : Word) (s : State) :
    depositMain reg v (withoutCaches s) = forgetCaches (depositMain reg v s) := by
  cases reg with
  | ds => rfl
  | pc | ac | link =>
    simp only [depositMain]
    rw [apply_ite forgetCaches]
    rfl

theorem depositDisplay_withoutCaches (reg : DispReg) (v : Word) (s : State) :
    depositDisplay reg v (withoutCaches s) = forgetCaches (depositDisplay reg v s) := by
  have hdeposit : depositedDisplay reg v (withoutCaches s) =
      withoutCaches (depositedDisplay reg v s) := by cases reg <;> rfl
  rw [depositDisplay, depositDisplay, hdeposit, apply_ite forgetCaches]
  rfl

theorem depositFrameCount_withoutCaches (n : Nat) (s : State) :
    depositFrameCount n (withoutCaches s) = forgetCaches (depositFrameCount n s) := by
  rw [depositFrameCount, depositFrameCount, apply_ite forgetCaches, apply_ite forgetCaches]
  rfl

theorem depositStack_withoutCaches (addrs : List Word) (s : State) :
    depositStack addrs (withoutCaches s) = forgetCaches (depositStack addrs s) := by
  rw [depositStack, depositStack, apply_ite forgetCaches]
  rfl

theorem resumeDisplay_withoutCaches (s : State) :
    resumeDisplay (withoutCaches s) = forgetCaches (resumeDisplay s) := by
  cases hstate : s.disp.dstate <;> simp only [resumeDisplay, withoutCaches, hstate] <;> rfl

theorem forgetCaches_forgetCaches (r : Result) : forgetCaches (forgetCaches r) = forgetCaches r := by
  cases r <;> rfl

theorem serve_withoutCaches (r : HostRequest) (h : cachesCoherent s) :
    forgetCaches (serve r (withoutCaches s)) = forgetCaches (serve r s) := by
  cases r with
  | mainStep => exact mainStep_withoutCaches h
  | dispStep => exact dispStep_withoutCaches h
  | depositMain reg v =>
    exact (congrArg _ (depositMain_withoutCaches reg v s)).trans (forgetCaches_forgetCaches _)
  | depositDisplay reg v =>
    exact (congrArg _ (depositDisplay_withoutCaches reg v s)).trans (forgetCaches_forgetCaches _)
  | depositFrameCount n =>
    exact (congrArg _ (depositFrameCount_withoutCaches n s)).trans (forgetCaches_forgetCaches _)
  | depositStack addrs =>
    exact (congrArg _ (depositStack_withoutCaches addrs s)).trans (forgetCaches_forgetCaches _)
  | resumeDisplay =>
    exact (congrArg _ (resumeDisplay_withoutCaches s)).trans (forgetCaches_forgetCaches _)
  | reset | resumeMain | store | setBreakpoints | setReadiness | setSwitches | setDevices => rfl

theorem nextRequest_withoutCaches (s : State) :
    nextRequest (withoutCaches s) = ((nextRequest s).1, withoutCaches (nextRequest s).2) := by
  cases hagenda : s.agenda <;> simp only [nextRequest, withoutCaches, hagenda]

/-- Settles O60: each request answers without the caches what it answers with them. -/
theorem cachesAreInvisible : Obligations.CachesAreInvisible := by
  intro s hcoh
  obtain ⟨agenda, tick, hframe⟩ := StepRules.nextRequest_frame s
  have hnext : cachesCoherent (nextRequest s).2 := by
    rw [hframe]
    exact ⟨hcoh.main, hcoh.display⟩
  rw [step, step, nextRequest_withoutCaches]
  exact serve_withoutCaches _ hnext

/-! ### Stores and fetches (R65, R370) -/

/-- A fetch sees just the slot and the word of its own address. -/
theorem fetchMainWord_memWrite (s : State) (a b v : Word) :
    (fetchMainWord (memWrite s a v) b).1 =
      if s.mask b = s.mask a then decodeMainWord v else (fetchMainWord s b).1 := by
  simp only [fetchMainWord, memWrite_mask, memWrite_mcache, lookup_eraseAt, memRead_memWrite,
    BitVec.toNat_inj]
  by_cases hab : s.mask b = s.mask a
  · simp only [hab, if_true]
  · simp only [hab, if_false]
    split <;> rfl

theorem fetchDisplayWord_memWrite (s : State) (a b v : Word) :
    (fetchDisplayWord (memWrite s a v) b).1 =
      if s.mask b = s.mask a then decodeDisplayWord s.params.dblockBits v
      else (fetchDisplayWord s b).1 := by
  simp only [fetchDisplayWord, memWrite_mask, memWrite_dcache, lookup_eraseAt, memRead_memWrite,
    memWrite_params, BitVec.toNat_inj]
  by_cases hab : s.mask b = s.mask a
  · simp only [hab, if_true]
  · simp only [hab, if_false]
    split <;> rfl

/-- Settles O53: a store empties the slot of its address, and no other. -/
theorem storeIsSeenByNextFetch : Obligations.StoreIsSeenByNextFetch :=
  fun s a b v => ⟨fetchMainWord_memWrite s a b v, fetchDisplayWord_memWrite s a b v⟩

end

end Sys2Proof.Caches
end

section
/-! The display branches (spec 44 R273, R274, R277), the Fetch of an order (spec 40 R121), and the return
from a subroutine (spec 41 R157, R153). -/

namespace Sys2Proof.BranchEffects

open Sys2Proof.Machine Sys2Proof.Transitions Sys2Proof.OrderEffects Sys2Proof.DisplayEffects
  Sys2Proof.RoundTrip

/-! ### Display branches -/

section

variable (a : BitVec 12) (s : State)

/-- The block and the operand do not overlap, so that joining them adds them (R273). -/
theorem branchTarget_eq (hbits : s.params.addrBits ≤ 16) :
    branchTarget s a =
      BitVec.ofNat 16 ((s.disp.block.toNat * 2 ^ s.params.dblockBits
        + a.toNat % 2 ^ s.params.dblockBits) % 2 ^ s.params.addrBits) := by
  apply BitVec.eq_of_toNat_eq
  have hfield : a.toNat % 2 ^ s.params.dblockBits < 2 ^ s.params.dblockBits :=
    Nat.mod_lt _ (Nat.two_pow_pos _)
  have hdvd : 2 ^ s.params.addrBits ∣ 2 ^ 16 := Nat.pow_dvd_pow 2 hbits
  rw [branchTarget, mask_toNat, Nat.min_eq_left hbits, BitVec.toNat_or, BitVec.toNat_shiftLeft,
    BitVec.toNat_setWidth, branchField_toNat, Nat.or_mod_two_pow, Nat.mod_mod_of_dvd _ hdvd,
    Nat.mod_mod_of_dvd _ hdvd, ← Nat.or_mod_two_pow, ← Nat.shiftLeft_add_eq_or_of_lt hfield,
    Nat.shiftLeft_eq, BitVec.toNat_ofNat]
  exact (Nat.mod_eq_of_lt ((Nat.mod_lt _ (Nat.two_pow_pos _)).trans_le
    (Nat.pow_le_pow_right Nat.two_pos hbits))).symm

theorem mask_branchTarget : s.mask (branchTarget s a) = branchTarget s a := mask_mask s _

theorem exec_djmp :
    exec (.djmp a) s = .next (s.onDisp fun d => { d with dpc := branchTarget s a }) := by
  have h : exec (.djmp a) s = .next (displayDone false (branchTarget s a) s) :=
    runDisplay_of_perform rfl
  rw [h, displayDone, mask_branchTarget]
  rfl

theorem exec_djms :
    exec (.djms a) s = .next (s.onDisp fun d =>
      { d with dpc := branchTarget s a, dstack := s.mask (s.disp.dpc + 1) :: d.dstack }) := by
  have h : exec (.djms a) s = .next (displayDone false (branchTarget s a)
      (s.onDisp fun d => { d with dstack := s.mask (s.disp.dpc + 1) :: d.dstack })) :=
    runDisplay_of_perform rfl
  rw [h, displayDone, onDisp_mask, mask_branchTarget]
  rfl

end

/-- Settles O36: of the operand the target takes the same bits as the encoding does. -/
theorem displayBranches : Obligations.DisplayBranches := by
  intro a s hbits
  refine ⟨decodeDisplayWord_djms _ a, decodeDisplayWord_djmp _ a, fun operand hoperand => ?_⟩
  have htarget : branchTarget s operand = branchTarget s a := by
    rcases List.mem_pair.mp hoperand with rfl | rfl
    · exact branchTarget_branchField s a
    · rfl
  rw [exec_djmp, exec_djms, htarget, branchTarget_eq a s hbits]
  exact ⟨rfl, rfl⟩

/-! ### Orders -/

/-- Settles O14: of the three ways to run, only an order has its class. -/
theorem fetchLatchesOrders : Obligations.FetchLatchesOrders := by
  intro i r s hrecord hclass hfetch
  cases runsAs_of_mainRecord hrecord with
  | order p _ hexec =>
    rw [hexec, runOrder_fetch i r.indirect r.data p s hfetch]
    cases r.indirect <;> rfl
  | operate _ hoperate => rw [hclass] at hoperate; cases hoperate
  | iot _ hoperate => rw [hclass] at hoperate; cases hoperate

/-! ### The return from a subroutine -/

section

variable {s u : State} {d : BitVec 11}

theorem deferTransition_of_not_index (h : isIndexCell (pageAddress s d) = false) :
    deferTransition d s =
      s.onMain fun m => { m with ea := s.mask (memRead s (pageAddress s d)), fsm := .execute } := by
  rw [deferTransition_eq, h]
  exact congrArg (fun x => s.onMain fun m => { m with ea := s.mask x, fsm := .execute })
    (BitVec.add_zero _)

theorem exec_jmp_execute (h : s.main.fsm = .execute) :
    ∃ t, exec (.jmp true d) s = .next t ∧ t.main.pc = s.mask s.main.ea :=
  ⟨_, runOrder_execute (.jmp true d) true d performJmp s h, rfl⟩

/-- An indirect JMP through a pointer that is no index cell goes to where it points (R122, R153). -/
theorem exec_jmp_indirect (hdefer : u.main.fsm = .defer)
    (hindex : isIndexCell (pageAddress u d) = false) :
    ∃ v w, exec (.jmp true d) u = .next v ∧ exec (.jmp true d) v = .next w
      ∧ w.main.pc = u.mask (memRead u (pageAddress u d)) := by
  have hfirst := runOrder_defer (.jmp true d) true d performJmp u hdefer
  rw [deferTransition_of_not_index hindex] at hfirst
  obtain ⟨w, hw, hpc⟩ := exec_jmp_execute (d := d) (s := u.onMain fun m =>
    { m with ea := u.mask (memRead u (pageAddress u d)), fsm := .execute }) rfl
  exact ⟨_, w, hfirst, hw, hpc.trans (mask_mask u _)⟩

end

/-- Settles O54: the pointer is the word that the JMS stored, and nothing has written it since. -/
theorem subroutineReturns : Obligations.SubroutineReturns := by
  intro ind d e s t u hexecute hjms hmem hparams hdefer haddr hindex
  obtain ⟨t', ht', _, hstored, honly⟩ := (subroutineJumpSavesReturn ind d s).2 hexecute
  obtain rfl : t = t' := Host.Outcome.next.inj (hjms.symm.trans ht')
  have hsu : ∀ x, u.mask x = s.mask x := fun x => by
    rw [State.mask, State.mask, hparams, honly]
  have htu : ∀ x, t.mask x = s.mask x := fun x => by rw [State.mask, State.mask, honly]
  have hread : memRead u (pageAddress u e) = s.mask (s.main.pc + 1) := by
    calc memRead u (pageAddress u e)
        = memRead t (operandAddress s ind d) := by
          rw [memRead, memRead, haddr, hmem, hsu, hsu, htu, mask_mask]
      _ = s.mask (s.main.pc + 1) := hstored.word
  obtain ⟨v, w, hv, hw, hpc⟩ := exec_jmp_indirect hdefer hindex
  refine ⟨v, w, hv, hw, ?_⟩
  rw [hpc, hread, hsu, mask_mask]

end Sys2Proof.BranchEffects
end

section
/-! What one step runs: the decoded or latched instruction of the processor that is stepped (spec 40 R121,
R129; 44 R250, R251, R276; 45 R300, R306), and the frame counter alone while it is stopped. -/

namespace Sys2Proof.WholeSteps

open Sys2Proof.Machine Sys2Proof.Transitions Sys2Proof.StepFrames Sys2Proof.ResetEffects

/-! ### Steps of the Main Processor -/

section

variable {s : State} {i : Instr}

/-- The registers with the data switches polled (R130). -/
def polledMain (s : State) : MainRegs :=
  { s.main with ds := if s.inputs.mapping then s.inputs.switches else s.main.ds }

theorem pollSwitches_eq_polledMain (s : State) :
    pollSwitches s = { s with main := polledMain s } := by
  unfold pollSwitches polledMain
  cases s.inputs.mapping <;> rfl

theorem pollSwitches_coherent (h : cachesCoherent s) : cachesCoherent (pollSwitches s) := by
  rw [pollSwitches_eq_polledMain]
  exact ⟨h.main, h.display⟩

theorem decodeMainWord_of_decode {k : Nat} (hdecode : decode k .main
    [readByte s.mem (2 * (s.mask s.main.pc).toNat), readByte s.mem (2 * (s.mask s.main.pc).toNat + 1)]
      = .ok (i, [])) : decodeMainWord (memRead s s.main.pc) = i :=
  congrArg Prod.fst (Except.ok.inj hdecode)

/-- In Fetch a step runs the decoded word, and the cache then holds it (R121, R64). -/
theorem mainStep_of_decoded (hrun : s.main.mstate = .running) (hcoh : cachesCoherent s)
    (hfetch : s.main.fsm = .fetch) (hword : decodeMainWord (memRead s s.main.pc) = i)
    (hassigned : isUnassigned i = false) :
    ∃ mc, (∀ b, lookup b mc =
        if b = (s.mask s.main.pc).toNat then some i else lookup b s.mcache)
      ∧ mainStep s = exec i { s with main := polledMain s, mcache := mc } := by
  have hnext : nextMainInstr (pollSwitches s) = fetchMainWord (pollSwitches s) s.main.pc := by
    rw [pollSwitches_eq_polledMain]
    simp only [nextMainInstr, polledMain, hfetch]
  have hfst : (fetchMainWord (pollSwitches s) s.main.pc).1 = i := by
    rw [fetchMainWord_fst _ _ (pollSwitches_coherent hcoh), pollSwitches_eq_polledMain]
    exact hword
  obtain ⟨mc, hsnd, hcache, -⟩ := fetchMainWord_snd (pollSwitches s) s.main.pc
  rw [hfst, pollSwitches_eq_polledMain] at hcache
  rw [mainStep_of_running hrun, hnext, hfst, hsnd, pollSwitches_eq_polledMain]
  exact ⟨mc, hcache hassigned, rfl⟩

/-- In Defer and Execute a step runs the latched order (R121). -/
theorem mainStep_of_latched (hrun : s.main.mstate = .running) (hfsm : s.main.fsm ≠ .fetch) :
    mainStep s = exec s.main.ir { s with main := polledMain s } := by
  rw [mainStep_of_running hrun, pollSwitches_eq_polledMain]
  cases hstate : s.main.fsm with
  | fetch => exact absurd hstate hfsm
  | defer | execute => simp only [nextMainInstr, polledMain, hstate]

end

/-- Settles O39: serving the request leaves all that decides what runs. -/
theorem mainStepRunsDecodedInstruction : Obligations.MainStepRunsDecodedInstruction := by
  intro s rest i hagenda hrun hcoh
  have hstep : step s = mainStep { s with agenda := rest } := step_of_agenda_cons hagenda
  refine ⟨fun hfetch hdecode hassigned => ?_, fun hfsm hir => ?_⟩
  · obtain ⟨mc, hcache, hmain⟩ :=
      mainStep_of_decoded (s := { s with agenda := rest }) hrun ⟨hcoh.main, hcoh.display⟩ hfetch
        (decodeMainWord_of_decode hdecode) hassigned
    exact ⟨mc, hcache, hstep.trans hmain⟩
  · subst hir
    exact hstep.trans (mainStep_of_latched (s := { s with agenda := rest }) hrun hfsm)

/-! ### Steps of the Display Processor -/

section

variable {s : State} {i : Instr}

theorem currentHalf_eq (d : DispRegs) :
    currentHalf d =
      if d.half = .first then d.immWord.extractLsb' 8 8 else d.immWord.extractLsb' 0 8 := by
  unfold currentHalf
  cases d.half <;> rfl

/-- In Processor mode a fetch answers the decoded word, and the cache and the tag then hold it (R251,
R64). -/
theorem nextDisplayInstr_of_decoded (hcoh : cachesCoherent s) (hmode : s.disp.dmode = .processor)
    (hword : decodeDisplayWord s.params.dblockBits (memRead s s.disp.dpc) = i)
    (hassigned : isUnassigned i = false) :
    ∃ dc us, (∀ b, lookup b dc =
        if b = (s.mask s.disp.dpc).toNat then some i else lookup b s.dcache)
      ∧ (∀ b, lookup b us =
        if b = (s.mask s.disp.dpc).toNat then some .processor else lookup b s.usage)
      ∧ nextDisplayInstr s = (i, { s with dcache := dc, usage := us }) := by
  have hnext : nextDisplayInstr s = fetchDisplayWord s s.disp.dpc := by
    simp only [nextDisplayInstr, hmode]
  have hfst : (fetchDisplayWord s s.disp.dpc).1 = i := (fetchDisplayWord_fst _ _ hcoh).trans hword
  obtain ⟨dc, us, hsnd, hcache, -⟩ := fetchDisplayWord_snd s s.disp.dpc
  rw [hfst] at hcache
  obtain ⟨hdc, hus⟩ := hcache hassigned
  exact ⟨dc, us, hdc, hus, hnext.trans (Prod.ext hfst hsnd)⟩

theorem nextDisplayInstr_of_increment (hmode : s.disp.dmode = .increment) :
    nextDisplayInstr s = (decodeHalf (currentHalf s.disp), s) := by
  simp only [nextDisplayInstr, hmode]

end

/-- Settles O40: the frame tick leaves all that decides what runs. -/
theorem dispStepRunsDecodedInstruction : Obligations.DispStepRunsDecodedInstruction := by
  intro s rest i hagenda hrun hcoh ticked a tested
  have htested : ∀ r, tested r = thenTested r := fun r => by
    cases r with
    | next t => exact congrArg Host.Outcome.next (displayBreakpointTest_eq t).symm
    | fault | refused => rfl
  have hstep : step s = tested (exec (nextDisplayInstr ticked).1 (nextDisplayInstr ticked).2) := by
    rw [htested, step_of_agenda_cons hagenda]
    exact dispStep_of_running (s := { s with agenda := rest }) hrun
  obtain ⟨cnt, latch, sink, htick⟩ := frameTick_frame { s with agenda := rest }
  have hticked : ticked = _ := htick
  refine ⟨fun hmode hdecode hassigned => ?_, fun hmode hdecode => ?_⟩
  · obtain ⟨dc, us, hdc, hus, hnext⟩ := nextDisplayInstr_of_decoded (s := ticked) (i := i)
      (by rw [hticked]; exact ⟨hcoh.main, hcoh.display⟩) (by rw [hticked]; exact hmode)
      (by rw [hticked]; exact congrArg Prod.fst (Except.ok.inj hdecode)) hassigned
    rw [hnext] at hstep
    rw [hticked] at hdc hus
    exact ⟨dc, us, hdc, hus, hstep⟩
  · have hhalf : decodeHalf (currentHalf ticked.disp) = i := by
      rw [hticked, currentHalf_eq]
      exact congrArg Prod.fst (Except.ok.inj hdecode)
    rw [nextDisplayInstr_of_increment (by rw [hticked]; exact hmode), hhalf] at hstep
    exact hstep

/-! ### Steps of a stopped processor -/

/-- Settles O41: a stopped display still ticks the frame counter. -/
theorem stoppedProcessorsOnlyCountFrames : Obligations.StoppedProcessorsOnlyCountFrames :=
  fun s => ⟨mainStep_of_stopped, fun h => (dispStep_of_stopped h).trans (by rw [frameTick_eq])⟩

theorem run_succ (M : Host.Core) {s t : M.State} (h : M.step s = .next t) (n : Nat) :
    M.run (n + 1) s = M.run n t := by
  simp only [Host.Core.run, h]

/-- The state in which the frame counter is `n` further and the requests `rest` are left. -/
def counted (rest : List HostRequest) (n : Nat) (s : State) : State :=
  { s with agenda := rest, disp := { s.disp with frameCnt := s.disp.frameCnt + n } }

theorem counted_counted (rest rest' : List HostRequest) (m n : Nat) (s : State) :
    counted rest n (counted rest' m s) = counted rest (n + m) s := by
  simp only [counted, Nat.add_assoc, Nat.add_comm m n]

section

variable {s : State} {rest : List HostRequest}

/-- Below the threshold a step of a stopped display counts (R251). -/
theorem step_counts (hagenda : s.agenda = .dispStep :: rest) (hstop : s.disp.dstate ≠ .running)
    (hcnt : s.disp.frameCnt < s.params.frameCycles) : step s = .next (counted rest 1 s) := by
  have htick := frameTick_eq { s with agenda := rest }
  rw [if_neg (Nat.not_lt.mpr hcnt)] at htick
  rw [step_of_agenda_cons hagenda]
  exact (dispStep_of_stopped (s := { s with agenda := rest }) hstop).trans (congrArg _ htick)

/-- At the threshold it crosses (R251, R336). -/
theorem step_crosses (hagenda : s.agenda = .dispStep :: rest) (hstop : s.disp.dstate ≠ .running)
    (hcnt : s.disp.frameCnt = s.params.frameCycles) :
    step s = .next
      { s with agenda := rest, disp := { s.disp with frameCnt := 0, frameLatch := true }
               sink := s.sink ++ [.frameDone] } := by
  have htick := frameTick_eq { s with agenda := rest }
  rw [if_pos (Nat.lt_succ_of_le hcnt.ge)] at htick
  rw [step_of_agenda_cons hagenda]
  exact (dispStep_of_stopped (s := { s with agenda := rest }) hstop).trans (congrArg _ htick)

end

/-- Steps that stay below the threshold count, whatever runs after them. -/
theorem run_counts (rest : List HostRequest) (m n : Nat) :
    ∀ s : State, s.disp.dstate ≠ .running → s.disp.frameCnt + n ≤ s.params.frameCycles →
      s.agenda = List.replicate n .dispStep ++ rest →
      Sys2Proof.core.run (n + m) s = Sys2Proof.core.run m (counted rest n s) := by
  induction n with
  | zero =>
    intro s _ _ hagenda
    obtain rfl : s.agenda = rest := hagenda
    rw [Nat.zero_add]
    rfl
  | succ n ih =>
    intro s hstop hcnt hagenda
    let next := counted (List.replicate n .dispStep ++ rest) 1 s
    calc Sys2Proof.core.run (n + 1 + m) s
        = Sys2Proof.core.run (n + m + 1) s := by rw [Nat.add_right_comm]
      _ = Sys2Proof.core.run (n + m) next :=
          run_succ Sys2Proof.core (step_counts hagenda hstop (by omega)) _
      _ = Sys2Proof.core.run m (counted rest n next) :=
          ih next hstop ((Nat.add_right_comm _ 1 n).trans_le hcnt) rfl
      _ = Sys2Proof.core.run m (counted rest (n + 1) s) := by rw [counted_counted]

/-- Settles O43: the counter rises to the threshold, and the next step crosses it. -/
theorem framePeriodOfStoppedDisplay : Obligations.FramePeriodOfStoppedDisplay := by
  intro s rest hstop hzero
  refine ⟨fun n hn hagenda => ?below, fun hagenda => ?crossing⟩
  case below =>
    refine (run_counts rest 0 n s hstop (by omega) hagenda).trans ?_
    rw [counted, hzero, Nat.zero_add]
    rfl
  case crossing =>
    rw [List.replicate_succ', List.append_assoc] at hagenda
    let full := counted (.dispStep :: rest) s.params.frameCycles s
    have hfull : full.disp.frameCnt = full.params.frameCycles := by
      change s.disp.frameCnt + s.params.frameCycles = s.params.frameCycles
      omega
    have hcross : step full = _ := step_crosses rfl hstop hfull
    have hdisp : { s.disp with frameLatch := true } =
        { s.disp with frameCnt := 0, frameLatch := true } := by rw [← hzero]
    rw [hdisp]
    exact (run_counts _ 1 _ s hstop (by omega) hagenda).trans (run_succ _ hcross 0)

end Sys2Proof.WholeSteps
end

section
/-! What a host request that steps no processor does (spec 10 R14; 40 R132; 44 R276), and what the state
after reset holds (spec 70 R360 to R364). -/

namespace Sys2Proof.HostEffects

open Sys2Proof.Machine Sys2Proof.StepFrames Sys2Proof.ResetEffects

/-! ### How a word stands for the register that it is deposited into -/

theorem and_blockMask (v : Word) (p : Params) :
    v &&& blockMask p = BitVec.ofNat 16 (v.toNat % 2 ^ (p.addrBits - p.dblockBits)) := by
  apply BitVec.eq_of_getLsbD_eq
  intro i hi
  simp only [blockMask, BitVec.getLsbD_and, BitVec.getLsbD_ofNat, Nat.testBit_two_pow_sub_one,
    Nat.testBit_mod_two_pow, BitVec.testBit_toNat, hi, decide_true, Bool.true_and, Bool.and_comm]

theorem extractLsb'_zero_eq_ofNat (v : Word) (n : Nat) :
    v.extractLsb' 0 n = BitVec.ofNat n v.toNat := by
  apply BitVec.eq_of_toNat_eq
  rw [BitVec.extractLsb'_toNat, Nat.shiftRight_zero, BitVec.toNat_ofNat]

theorem scaleOf_extract (v : Word) :
    scaleOf (v.extractLsb' 0 2) = if v.toNat % 4 = 0 then 1 else v.toNat % 4 := by
  have hbits : (v.extractLsb' 0 2).toNat = v.toNat % 4 := by
    rw [extractLsb'_zero_eq_ofNat, BitVec.toNat_ofNat]
  have hzero : v.extractLsb' 0 2 = 0 ↔ v.toNat % 4 = 0 := by
    rw [← BitVec.toNat_inj, hbits]
    rfl
  simp only [scaleOf, hzero, hbits]

/-! ### The requests -/

section

variable {s : State} {rest : List HostRequest}

theorem step_store {a v : Word} (h : s.agenda = .store a v :: rest) :
    ∃ t, step s = .next t ∧ storedWord s t a v
      ∧ onlyMainAndMemory { s with agenda := rest } t ∧ t.main = s.main := by
  have hstored := memWrite_storedWord { s with agenda := rest } a v
  exact ⟨_, step_of_agenda_cons h,
    ⟨hstored.word, hstored.others, hstored.mcache, hstored.dcache, hstored.usage⟩, rfl, rfl⟩

theorem step_resumeDisplay (h : s.agenda = .resumeDisplay :: rest)
    (hstate : s.disp.dstate = .breakpointHalt) :
    step s = .next { s with agenda := rest, disp := { s.disp with dstate := .running } } := by
  rw [step_of_agenda_cons h]
  simp only [serve, resumeDisplay, hstate]
  rfl

theorem step_depositMain {v : Word} (hstop : s.main.mstate ≠ .running) :
    (s.agenda = .depositMain .pc v :: rest →
      step s = .next { s with agenda := rest, main := { s.main with pc := s.mask v } })
    ∧ (s.agenda = .depositMain .ac v :: rest →
      step s = .next { s with agenda := rest, main := { s.main with ac := v } })
    ∧ (s.agenda = .depositMain .link v :: rest →
      step s = .next { s with agenda := rest, main := { s.main with l := v.getLsbD 0 } }) :=
  ⟨fun h => (step_of_agenda_cons h).trans (if_neg hstop),
    fun h => (step_of_agenda_cons h).trans (if_neg hstop),
    fun h => (step_of_agenda_cons h).trans (if_neg hstop)⟩

theorem step_depositDisplay {reg : DispReg} {v : Word} (hstop : s.disp.dstate ≠ .running)
    (h : s.agenda = .depositDisplay reg v :: rest) :
    step s = .next (depositedDisplay reg v { s with agenda := rest }) :=
  (step_of_agenda_cons h).trans (if_neg hstop)

theorem step_depositStack {addrs : List Word} (hstop : s.disp.dstate ≠ .running)
    (h : s.agenda = .depositStack addrs :: rest) :
    step s = .next { s with agenda := rest, disp := { s.disp with dstack := addrs.map s.mask } } :=
  (step_of_agenda_cons h).trans (if_neg hstop)

theorem step_depositFrameCount {n : Nat} (hstop : s.disp.dstate ≠ .running)
    (hn : n ≤ s.params.frameCycles) (h : s.agenda = .depositFrameCount n :: rest) :
    step s = .next { s with agenda := rest, disp := { s.disp with frameCnt := n } } :=
  (step_of_agenda_cons h).trans ((if_neg hstop).trans (if_pos hn))

end

/-- Settles O47: each request by its own rule, and the masked registers by how the word stands for
them. -/
theorem hostRequestsBetweenSteps : Obligations.HostRequestsBetweenSteps := by
  intro s rest
  refine ⟨fun a v => step_store, step_of_agenda_cons, step_resumeDisplay,
    fun v h hstop => (step_depositMain hstop).1 h, fun v h hstop => (step_depositMain hstop).2.1 h,
    fun v h hstop => (step_depositMain hstop).2.2 h, fun v h _ => step_of_agenda_cons h,
    fun v h hstop => step_depositDisplay hstop h, fun v h hstop => ?block, fun v h hstop => ?x,
    fun v h hstop => ?y, fun v h hstop => ?scale, fun v h hstop => step_depositDisplay hstop h,
    fun addrs h hstop => step_depositStack hstop h,
    fun n h hstop hn => step_depositFrameCount hstop hn h,
    fun v h hstop => step_depositDisplay hstop h, fun n => step_of_agenda_cons,
    fun p => step_of_agenda_cons, fun r => step_of_agenda_cons, fun m v => step_of_agenda_cons⟩
  case block =>
    rw [step_depositDisplay hstop h, depositedDisplay, and_blockMask]
    rfl
  case x =>
    rw [step_depositDisplay hstop h, depositedDisplay, extractLsb'_zero_eq_ofNat]
    rfl
  case y =>
    rw [step_depositDisplay hstop h, depositedDisplay, extractLsb'_zero_eq_ofNat]
    rfl
  case scale =>
    rw [step_depositDisplay hstop h, depositedDisplay, scaleOf_extract]
    rfl

/-! ### The state after reset -/

theorem defaultParams_wf : Params.default.wf = true := by decide

/-- Settles O46: the listed values are the definition's own. -/
theorem resetStateValues : Obligations.ResetStateValues := by
  refine ⟨⟨rfl, rfl, rfl, rfl, rfl, rfl, rfl⟩, ?_, rfl, rfl, rfl, reset_readByte, defaultParams_wf⟩
  exact ⟨rfl, rfl, rfl, rfl, rfl, rfl, rfl, rfl, rfl, rfl, rfl, rfl, rfl, rfl, rfl, rfl, rfl⟩

theorem reset_registersInRange : registersInRange State.reset where
  pc := show (0x20 : Word).toNat < 2 ^ 13 by decide
  ea := zero_inRange _
  mainBp := zero_inRange _
  dpc := zero_inRange _
  dentry := zero_inRange _
  dispBp := zero_inRange _
  dstack := nofun
  block := Nat.two_pow_pos _
  scale := ⟨Nat.le_refl 1, by decide⟩
  frameCnt := Nat.zero_le _

theorem reset_cachesCoherent : cachesCoherent State.reset where
  main := nofun
  display := nofun

theorem reset_tablesCanonical : tablesCanonical State.reset where
  mem := rfl
  memWhole _ := rfl
  memRange := nofun
  mcache := rfl
  mcacheRange := nofun
  dcache := rfl
  dcacheRange := nofun
  usage := rfl
  usageRange := nofun

/-- Settles O59: the reset state is in Fetch, its addresses are small and its tables empty. -/
theorem invariantsHoldAtReset : Obligations.InvariantsHoldAtReset :=
  ⟨reset_registersInRange, reset_cachesCoherent, reset_tablesCanonical,
    transitionsConsistent_of_fetch rfl⟩

end Sys2Proof.HostEffects
end
